-- ==== Sys2Proof/Word.lean ====
section
/-! DEFINITION. The word types of the c8 machine: the widths the spec gives its registers, addresses and
instruction fields (00_scope.md R6, R9; 30_encoding.md R91). All values are unsigned. -/

namespace Sys2Proof

/-- One memory byte, one general register, one timer, or the immediate `nn` (R6: REG_BITS = 8). -/
abbrev Byte := BitVec 8

/-- One opcode, the index register, the program counter, or one call-stack entry (R6: 16 bits each). -/
abbrev Word := BitVec 16

/-- The 12-bit immediate `nnn` (R91: bits 11 to 0 of the opcode). -/
abbrev Imm12 := BitVec 12

/-- The number of a general register `V[0]` to `V[15]` (R21: every 4-bit value names a register). -/
abbrev Reg := Fin 16

/-- A logical key id, 0 to 15 (R38). -/
abbrev Key := Fin 16

/-- `zext_16` of an immediate (R9, R93). -/
abbrev Imm12.toWord (nnn : Imm12) : Word := nnn.setWidth 16

end Sys2Proof
end

