-- ==== Sys2Proof/Syntax.lean ====
section
/-! DEFINITION. The instructions: one constructor per row of spec/opcode_table.json, in the table's order
(30_encoding.md R95, R96). Fields are named as R91 names them. -/

namespace Sys2Proof

/-- The 34 instructions (R96). A register number is a `Reg`, so every value of `x` and `y` names a register (R93). -/
inductive Instr where
  /-- `00E0` clear the display (R221). -/
  | cls
  /-- `00EE` return (R152). -/
  | ret
  /-- `1NNN` jump (R150). -/
  | jp (nnn : Imm12)
  /-- `2NNN` call (R151). -/
  | call (nnn : Imm12)
  /-- `3XNN` skip if equal to immediate (R154). -/
  | seI (x : Reg) (nn : Byte)
  /-- `4XNN` skip if not equal to immediate (R155). -/
  | sneI (x : Reg) (nn : Byte)
  /-- `5XY0` skip if registers equal (R156). -/
  | seR (x y : Reg)
  /-- `6XNN` load immediate (R170). -/
  | ldI (x : Reg) (nn : Byte)
  /-- `7XNN` add immediate (R171). -/
  | addI (x : Reg) (nn : Byte)
  /-- `8XY0` copy (R172). -/
  | ldR (x y : Reg)
  /-- `8XY1` bitwise or (R173). -/
  | or (x y : Reg)
  /-- `8XY2` bitwise and (R174). -/
  | and (x y : Reg)
  /-- `8XY3` bitwise exclusive or (R175). -/
  | xor (x y : Reg)
  /-- `8XY4` add with carry flag (R176). -/
  | addR (x y : Reg)
  /-- `8XY5` subtract, saturating (R177). -/
  | sub (x y : Reg)
  /-- `8XY6` shift right by one (R179). -/
  | shr (x y : Reg)
  /-- `8XY7` reverse subtract, saturating (R178). -/
  | subn (x y : Reg)
  /-- `8XYE` shift left by one (R180). -/
  | shl (x y : Reg)
  /-- `9XY0` skip if registers differ (R157). -/
  | sneR (x y : Reg)
  /-- `ANNN` load index (R200). -/
  | ldIdx (nnn : Imm12)
  /-- `BNNN` jump with offset (R153); `x` is the top digit of `nnn`, which the decoder "also kept" (R95). -/
  | jpOff (x : Reg) (nnn : Imm12)
  /-- `CXNN` masked random byte (R181). -/
  | rnd (x : Reg) (nn : Byte)
  /-- `DXYN` draw a sprite of `n` rows (R222); `n` is a count, 0 to 15. -/
  | drw (x y : Reg) (n : Nat)
  /-- `EX9E` skip if key pressed (R231). -/
  | skp (x : Reg)
  /-- `EXA1` skip if key not pressed (R232). -/
  | sknp (x : Reg)
  /-- `FX07` read the delay timer (R234). -/
  | ldFromDt (x : Reg)
  /-- `FX0A` wait for a key (R233). -/
  | waitkey (x : Reg)
  /-- `FX15` set the delay timer (R235). -/
  | ldDt (x : Reg)
  /-- `FX18` set the sound timer (R236). -/
  | ldSt (x : Reg)
  /-- `FX1E` add register to index (R201). -/
  | addIdx (x : Reg)
  /-- `FX29` point index at a font glyph (R202). -/
  | font (x : Reg)
  /-- `FX33` store the three decimal digits (R203). -/
  | bcd (x : Reg)
  /-- `FX55` store registers `V[0]` to `V[x]` (R204). -/
  | stm (x : Reg)
  /-- `FX65` load registers `V[0]` to `V[x]` (R205). -/
  | ldm (x : Reg)
  deriving DecidableEq, Repr

end Sys2Proof
end

