-- ==== Sys2Proof/WellFormed.lean ====
section
/-! DEFINITION. Which instruction terms stand for an opcode. Register numbers and immediates have exactly their
fields' widths by type; two checks remain: `DXYN`'s row count fits its 4-bit field, and the register number `BNNN`
keeps is the top digit of its address (30_encoding.md R91, R95, R99). -/

namespace Sys2Proof

/-- The register number that is the top digit of an address, `nnn[11:8]` (R92, R99). -/
def topDigit (nnn : Imm12) : Reg := (nnn.extractLsb' 8 4).toFin

/-- An instruction term is well formed when the decoder can yield it (R91, R95). -/
def Instr.wellFormed : Instr → Bool
  | .drw _ _ n => n < 16
  | .jpOff x nnn => x == topDigit nnn
  | .cls | .ret | .jp _ | .call _ | .seI _ _ | .sneI _ _ | .seR _ _ | .ldI _ _ | .addI _ _ | .ldR _ _
  | .or _ _ | .and _ _ | .xor _ _ | .addR _ _ | .sub _ _ | .shr _ _ | .subn _ _ | .shl _ _ | .sneR _ _
  | .ldIdx _ | .rnd _ _ | .skp _ | .sknp _ | .ldFromDt _ | .waitkey _ | .ldDt _ | .ldSt _ | .addIdx _
  | .font _ | .bcd _ | .stm _ | .ldm _ => true

end Sys2Proof
end

