-- ==== Sys2Proof/Decode.lean ====
section
/-! DEFINITION. The decoder, in the spec's two stages (30_encoding.md R91, R94, R95), the encoder written from the
formats of R92, and the opcode map of R96 as rows of mask and match. -/

namespace Sys2Proof

/-! ### Stage 1: field extraction -/

/-- The six fields of an opcode (R91). -/
structure Fields where
  top : BitVec 4
  x : Reg
  y : Reg
  n : BitVec 4
  nn : Byte
  nnn : Imm12
  deriving DecidableEq, Repr

/-- Field extraction accepts all 65536 opcodes (R91, R94). -/
def extract (op : Word) : Fields where
  top := op.extractLsb' 12 4
  x := (op.extractLsb' 8 4).toFin
  y := (op.extractLsb' 4 4).toFin
  n := op.extractLsb' 0 4
  nn := op.extractLsb' 0 8
  nnn := op.extractLsb' 0 12

/-! ### Stage 2: dispatch -/

/-- Why bytes decode to no instruction. -/
inductive DecodeError where
  /-- The opcode matches no row of R96 (`Illegal`, R98). -/
  | illegal (op : Word)
  /-- Fewer than the two bytes of an instruction (R90) were given; the machine's fetch never gives fewer. -/
  | truncated
  deriving DecidableEq, Repr

/-- Family 0: exactly two opcodes are legal (R95, R97). -/
def decodeFamily0 (op : Word) : Option Instr :=
  if op = 0x00E0#16 then some .cls else if op = 0x00EE#16 then some .ret else none

/-- Family 8, by `n` (R95). -/
def decodeFamily8 (f : Fields) : Option Instr :=
  match f.n.toNat with
  | 0x0 => some (.ldR f.x f.y)
  | 0x1 => some (.or f.x f.y)
  | 0x2 => some (.and f.x f.y)
  | 0x3 => some (.xor f.x f.y)
  | 0x4 => some (.addR f.x f.y)
  | 0x5 => some (.sub f.x f.y)
  | 0x6 => some (.shr f.x f.y)
  | 0x7 => some (.subn f.x f.y)
  | 0xE => some (.shl f.x f.y)
  | _ => none

/-- Family E, by `nn` (R95). -/
def decodeFamilyE (f : Fields) : Option Instr :=
  if f.nn = 0x9E#8 then some (.skp f.x) else if f.nn = 0xA1#8 then some (.sknp f.x) else none

/-- Family F, by `nn` (R95). -/
def decodeFamilyF (f : Fields) : Option Instr :=
  if f.nn = 0x07#8 then some (.ldFromDt f.x)
  else if f.nn = 0x0A#8 then some (.waitkey f.x)
  else if f.nn = 0x15#8 then some (.ldDt f.x)
  else if f.nn = 0x18#8 then some (.ldSt f.x)
  else if f.nn = 0x1E#8 then some (.addIdx f.x)
  else if f.nn = 0x29#8 then some (.font f.x)
  else if f.nn = 0x33#8 then some (.bcd f.x)
  else if f.nn = 0x55#8 then some (.stm f.x)
  else if f.nn = 0x65#8 then some (.ldm f.x)
  else none

/-- Dispatch by the top nibble, then by the family's secondary fields (R95); `none` is `Illegal`. -/
def dispatch (op : Word) (f : Fields) : Option Instr :=
  match f.top.toNat with
  | 0x0 => decodeFamily0 op
  | 0x1 => some (.jp f.nnn)
  | 0x2 => some (.call f.nnn)
  | 0x3 => some (.seI f.x f.nn)
  | 0x4 => some (.sneI f.x f.nn)
  | 0x5 => if f.n = 0#4 then some (.seR f.x f.y) else none
  | 0x6 => some (.ldI f.x f.nn)
  | 0x7 => some (.addI f.x f.nn)
  | 0x8 => decodeFamily8 f
  | 0x9 => if f.n = 0#4 then some (.sneR f.x f.y) else none
  | 0xA => some (.ldIdx f.nnn)
  | 0xB => some (.jpOff f.x f.nnn)
  | 0xC => some (.rnd f.x f.nn)
  | 0xD => some (.drw f.x f.y f.n.toNat)
  | 0xE => decodeFamilyE f
  | _ => decodeFamilyF f

/-- Decode one opcode. It depends on the opcode alone (R101). -/
def decode (op : Word) : Except DecodeError Instr :=
  match dispatch op (extract op) with
  | some i => .ok i
  | none => .error (.illegal op)

/-- Decode the instruction at the head of a byte list: two bytes, high byte first (R63, R90). -/
def decodeBytes : List Byte → Except DecodeError (Instr × List Byte)
  | hi :: lo :: rest =>
    match decode (hi ++ lo) with
    | .ok i => .ok (i, rest)
    | .error e => .error e
  | _ => .error .truncated

/-! ### The encoder -/

/-- A register number as its 4-bit field. -/
def regBits (x : Reg) : BitVec 4 := BitVec.ofFin x

/-- Format `NNN`: `t nnn nnn nnn` (R92). -/
def fmtNNN (t : BitVec 4) (nnn : Imm12) : Word := t ++ nnn

/-- Format `XNN`: `t x nn nn` (R92). -/
def fmtXNN (t : BitVec 4) (x : Reg) (nn : Byte) : Word := t ++ regBits x ++ nn

/-- Formats `XY` and `XYN`: `t x y s` (R92). -/
def fmtXYN (t : BitVec 4) (x y : Reg) (s : BitVec 4) : Word := t ++ regBits x ++ regBits y ++ s

/-- The opcode of an instruction (R92, R96). Format `X`, `t x s s`, is `XNN` with a fixed `nn`. -/
def encode : Instr → Word
  | .cls => 0x00E0#16
  | .ret => 0x00EE#16
  | .jp nnn => fmtNNN 0x1#4 nnn
  | .call nnn => fmtNNN 0x2#4 nnn
  | .seI x nn => fmtXNN 0x3#4 x nn
  | .sneI x nn => fmtXNN 0x4#4 x nn
  | .seR x y => fmtXYN 0x5#4 x y 0x0#4
  | .ldI x nn => fmtXNN 0x6#4 x nn
  | .addI x nn => fmtXNN 0x7#4 x nn
  | .ldR x y => fmtXYN 0x8#4 x y 0x0#4
  | .or x y => fmtXYN 0x8#4 x y 0x1#4
  | .and x y => fmtXYN 0x8#4 x y 0x2#4
  | .xor x y => fmtXYN 0x8#4 x y 0x3#4
  | .addR x y => fmtXYN 0x8#4 x y 0x4#4
  | .sub x y => fmtXYN 0x8#4 x y 0x5#4
  | .shr x y => fmtXYN 0x8#4 x y 0x6#4
  | .subn x y => fmtXYN 0x8#4 x y 0x7#4
  | .shl x y => fmtXYN 0x8#4 x y 0xE#4
  | .sneR x y => fmtXYN 0x9#4 x y 0x0#4
  | .ldIdx nnn => fmtNNN 0xA#4 nnn
  | .jpOff _ nnn => fmtNNN 0xB#4 nnn
  | .rnd x nn => fmtXNN 0xC#4 x nn
  | .drw x y n => fmtXYN 0xD#4 x y (BitVec.ofNat 4 n)
  | .skp x => fmtXNN 0xE#4 x 0x9E#8
  | .sknp x => fmtXNN 0xE#4 x 0xA1#8
  | .ldFromDt x => fmtXNN 0xF#4 x 0x07#8
  | .waitkey x => fmtXNN 0xF#4 x 0x0A#8
  | .ldDt x => fmtXNN 0xF#4 x 0x15#8
  | .ldSt x => fmtXNN 0xF#4 x 0x18#8
  | .addIdx x => fmtXNN 0xF#4 x 0x1E#8
  | .font x => fmtXNN 0xF#4 x 0x29#8
  | .bcd x => fmtXNN 0xF#4 x 0x33#8
  | .stm x => fmtXNN 0xF#4 x 0x55#8
  | .ldm x => fmtXNN 0xF#4 x 0x65#8

/-- The bytes of an instruction as they lie in memory: high byte at the lower address (R63). -/
def encodeBytes (i : Instr) : List Byte := [(encode i).extractLsb' 8 8, (encode i).extractLsb' 0 8]

/-! ### The opcode map -/

/-- One row of the opcode map: the opcodes `op` with `op AND mask = value` (R96, its `match` column). -/
structure OpcodeRow where
  mnemonic : String
  value : Word
  mask : Word
  deriving DecidableEq, Repr

/-- An opcode selects a row (R96). -/
def OpcodeRow.selects (r : OpcodeRow) (op : Word) : Bool := op &&& r.mask == r.value

/-- Rows 1 to 9 of R96. -/
def opcodeRowsA : List OpcodeRow :=
  [⟨"CLS", 0x00E0, 0xFFFF⟩, ⟨"RET", 0x00EE, 0xFFFF⟩, ⟨"JP", 0x1000, 0xF000⟩, ⟨"CALL", 0x2000, 0xF000⟩,
   ⟨"SE_I", 0x3000, 0xF000⟩, ⟨"SNE_I", 0x4000, 0xF000⟩, ⟨"SE_R", 0x5000, 0xF00F⟩, ⟨"LD_I", 0x6000, 0xF000⟩,
   ⟨"ADD_I", 0x7000, 0xF000⟩]

/-- Rows 10 to 18 of R96: family 8. -/
def opcodeRowsB : List OpcodeRow :=
  [⟨"LD_R", 0x8000, 0xF00F⟩, ⟨"OR", 0x8001, 0xF00F⟩, ⟨"AND", 0x8002, 0xF00F⟩, ⟨"XOR", 0x8003, 0xF00F⟩,
   ⟨"ADD_R", 0x8004, 0xF00F⟩, ⟨"SUB", 0x8005, 0xF00F⟩, ⟨"SHR", 0x8006, 0xF00F⟩, ⟨"SUBN", 0x8007, 0xF00F⟩,
   ⟨"SHL", 0x800E, 0xF00F⟩]

/-- Rows 19 to 34 of R96. -/
def opcodeRowsC : List OpcodeRow :=
  [⟨"SNE_R", 0x9000, 0xF00F⟩, ⟨"LD_IDX", 0xA000, 0xF000⟩, ⟨"JP_OFF", 0xB000, 0xF000⟩, ⟨"RND", 0xC000, 0xF000⟩,
   ⟨"DRW", 0xD000, 0xF000⟩, ⟨"SKP", 0xE09E, 0xF0FF⟩, ⟨"SKNP", 0xE0A1, 0xF0FF⟩, ⟨"LD_FROM_DT", 0xF007, 0xF0FF⟩] ++
  [⟨"WAITKEY", 0xF00A, 0xF0FF⟩, ⟨"LD_DT", 0xF015, 0xF0FF⟩, ⟨"LD_ST", 0xF018, 0xF0FF⟩, ⟨"ADD_IDX", 0xF01E, 0xF0FF⟩,
   ⟨"FONT", 0xF029, 0xF0FF⟩, ⟨"BCD", 0xF033, 0xF0FF⟩, ⟨"STM", 0xF055, 0xF0FF⟩, ⟨"LDM", 0xF065, 0xF0FF⟩]

/-- The opcode map of R96: 34 rows in the table's order. -/
def opcodeMap : List OpcodeRow := opcodeRowsA ++ opcodeRowsB ++ opcodeRowsC

/-- The row of the opcode map an instruction belongs to (R96). -/
def Instr.row : Instr → OpcodeRow
  | .cls => ⟨"CLS", 0x00E0, 0xFFFF⟩
  | .ret => ⟨"RET", 0x00EE, 0xFFFF⟩
  | .jp _ => ⟨"JP", 0x1000, 0xF000⟩
  | .call _ => ⟨"CALL", 0x2000, 0xF000⟩
  | .seI _ _ => ⟨"SE_I", 0x3000, 0xF000⟩
  | .sneI _ _ => ⟨"SNE_I", 0x4000, 0xF000⟩
  | .seR _ _ => ⟨"SE_R", 0x5000, 0xF00F⟩
  | .ldI _ _ => ⟨"LD_I", 0x6000, 0xF000⟩
  | .addI _ _ => ⟨"ADD_I", 0x7000, 0xF000⟩
  | .ldR _ _ => ⟨"LD_R", 0x8000, 0xF00F⟩
  | .or _ _ => ⟨"OR", 0x8001, 0xF00F⟩
  | .and _ _ => ⟨"AND", 0x8002, 0xF00F⟩
  | .xor _ _ => ⟨"XOR", 0x8003, 0xF00F⟩
  | .addR _ _ => ⟨"ADD_R", 0x8004, 0xF00F⟩
  | .sub _ _ => ⟨"SUB", 0x8005, 0xF00F⟩
  | .shr _ _ => ⟨"SHR", 0x8006, 0xF00F⟩
  | .subn _ _ => ⟨"SUBN", 0x8007, 0xF00F⟩
  | .shl _ _ => ⟨"SHL", 0x800E, 0xF00F⟩
  | .sneR _ _ => ⟨"SNE_R", 0x9000, 0xF00F⟩
  | .ldIdx _ => ⟨"LD_IDX", 0xA000, 0xF000⟩
  | .jpOff _ _ => ⟨"JP_OFF", 0xB000, 0xF000⟩
  | .rnd _ _ => ⟨"RND", 0xC000, 0xF000⟩
  | .drw _ _ _ => ⟨"DRW", 0xD000, 0xF000⟩
  | .skp _ => ⟨"SKP", 0xE09E, 0xF0FF⟩
  | .sknp _ => ⟨"SKNP", 0xE0A1, 0xF0FF⟩
  | .ldFromDt _ => ⟨"LD_FROM_DT", 0xF007, 0xF0FF⟩
  | .waitkey _ => ⟨"WAITKEY", 0xF00A, 0xF0FF⟩
  | .ldDt _ => ⟨"LD_DT", 0xF015, 0xF0FF⟩
  | .ldSt _ => ⟨"LD_ST", 0xF018, 0xF0FF⟩
  | .addIdx _ => ⟨"ADD_IDX", 0xF01E, 0xF0FF⟩
  | .font _ => ⟨"FONT", 0xF029, 0xF0FF⟩
  | .bcd _ => ⟨"BCD", 0xF033, 0xF0FF⟩
  | .stm _ => ⟨"STM", 0xF055, 0xF0FF⟩
  | .ldm _ => ⟨"LDM", 0xF065, 0xF0FF⟩

/-! ### What the host asks of the decoder -/

/-- The bytes, as the hardware stores them, of the instruction whose table bits are the low `nbits` bits of `w`; the
bits above are zero. Bit 0 of the table is bit 0 of the one 16-bit word (R8, R63, R90). -/
def tableBytes (nbits w : Nat) : List Byte :=
  let op := w % 2 ^ nbits
  [BitVec.ofNat 8 (op / 256), BitVec.ofNat 8 op]

/-- The instruction the decoder reads from an instruction with table bits `w`. -/
def decodeTableWord (nbits w : Nat) : Option Instr :=
  match decodeBytes (tableBytes nbits w) with
  | .ok (i, _) => some i
  | .error _ => none

end Sys2Proof
end

