-- ==== Sys2Proof/Config.lean ====
section
/-! DEFINITION. What is fixed for a run: the construction parameters of the core (00_scope.md R7), the default font
table the spec prints (10_state.md R42), and the values the spec leaves free. A free value is a constant with no
body, so nothing proved can rest on what it is. -/

namespace Sys2Proof

/-- The parameters chosen when the core is constructed and never changed after (00_scope.md R7; 10_state.md R36, R37,
R42). They stand in `State.params` so that a statement about every state is one about every choice of them (log 1, 3). -/
structure Params where
  /-- `Q_SHIFT_VX_ONLY`: `8XY6` and `8XYE` shift `V[x]`; else they shift `V[y]`. -/
  qShiftVxOnly : Bool
  /-- `Q_JUMP_VX`: `BNNN` adds `V[x]`; else it adds `V[0]`. -/
  qJumpVx : Bool
  /-- `Q_MEM_KEEP_I`: `FX55` and `FX65` leave `I` as it is; else they advance it by `x + 1`. -/
  qMemKeepI : Bool
  /-- `DISPLAY_W`, a positive integer. -/
  displayW : Nat
  /-- `DISPLAY_H`, a positive integer. -/
  displayH : Nat
  /-- `FONT`: 16 glyphs of 5 bytes. -/
  font : Vector Byte 80
  deriving DecidableEq, Repr

namespace Config

/-- Glyphs 0 to 7 of the default table (R42). -/
def fontLow : List Byte :=
  [0xF0, 0x90, 0x90, 0x90, 0xF0] ++ [0x20, 0x60, 0x20, 0x20, 0x70] ++
  [0xF0, 0x10, 0xF0, 0x80, 0xF0] ++ [0xF0, 0x10, 0xF0, 0x10, 0xF0] ++
  [0x90, 0x90, 0xF0, 0x10, 0x10] ++ [0xF0, 0x80, 0xF0, 0x10, 0xF0] ++
  [0xF0, 0x80, 0xF0, 0x90, 0xF0] ++ [0xF0, 0x10, 0x20, 0x40, 0x40]

/-- Glyphs 8 to F of the default table (R42). -/
def fontHigh : List Byte :=
  [0xF0, 0x90, 0xF0, 0x90, 0xF0] ++ [0xF0, 0x90, 0xF0, 0x10, 0xF0] ++
  [0xF0, 0x90, 0xF0, 0x90, 0x90] ++ [0xE0, 0x90, 0xE0, 0x90, 0xE0] ++
  [0xF0, 0x80, 0x80, 0x80, 0xF0] ++ [0xE0, 0x90, 0x90, 0x90, 0xE0] ++
  [0xF0, 0x80, 0xF0, 0x80, 0xF0] ++ [0xF0, 0x80, 0xF0, 0x80, 0x80]

/-- The default value of `FONT` (R42, D2). PRESUMED, unsafe: the source gives no font bytes (log 2). -/
def defaultFont : Vector Byte 80 := ⟨(fontLow ++ fontHigh).toArray, rfl⟩

/-- The byte that draw number `k` of `RAND` yields (42_alu.md R182, D14): any byte at every draw (log 8). -/
opaque randByte : Nat → Byte

/-- `FB0`: pixel (px, py) of the grid the first `load` leaves (10_state.md R41, D17): any picture (log 6). -/
opaque fb0 : Nat → Nat → Bool

/-- Whether key `k` is pressed when the first `load` completes (10_state.md R41, D17): as the host left it (log 7). -/
opaque keys0 : Nat → Bool

/-- The construction's choice of `Q_SHIFT_VX_ONLY` (10_state.md R36, D28): the spec gives no default (log 3). -/
opaque qShiftVxOnly : Bool

/-- The construction's choice of `Q_JUMP_VX` (R36, D28; log 3). -/
opaque qJumpVx : Bool

/-- The construction's choice of `Q_MEM_KEEP_I` (R36, D28; log 3). -/
opaque qMemKeepI : Bool

/-- The parameters at `State.reset`: the defaults the spec names for the display size and the font, the free
constants for the quirks (log 1, 2, 3). -/
def params : Params where
  qShiftVxOnly := qShiftVxOnly
  qJumpVx := qJumpVx
  qMemKeepI := qMemKeepI
  displayW := 64
  displayH := 32
  font := defaultFont

end Config
end Sys2Proof
end

