-- ==== Sys2Proof/Machine/State.lean ====
section
/-! DEFINITION. The machine's state as plain data: what 10_state.md R20 says the core owns, the construction
parameters (R36, R43), the state of the two collaborators (R37, R38), and three fields of the model's own (the count of
random draws, the host's pending transactions, and what the last transaction handed back). -/

namespace Sys2Proof.Machine

/-- The run mode (10_state.md R33). -/
inductive Mode where
  | running
  /-- The key-wait; `x` is the register that will receive the key. -/
  | waitingForKey (x : Reg)
  | halted
  /-- The mode after a fatal error (D7, log 14). -/
  | faulted
  deriving DecidableEq, Repr

/-- The three fatal errors (60_exceptions.md R250). -/
inductive ErrKind where
  | unrecognizedOpcode
  | stackOverflow
  | stackUnderflow
  deriving DecidableEq, Repr

/-- The spec's number for a fatal error (R250, D18). -/
def ErrKind.code : ErrKind → Nat
  | .unrecognizedOpcode => 1
  | .stackOverflow => 2
  | .stackUnderflow => 3

/-- The error record's triple (10_state.md R34). -/
structure ErrRecord where
  kind : ErrKind
  /-- The opcode of the offending instruction. -/
  opcode : Word
  /-- The address it was fetched from. -/
  pc : Word
  deriving DecidableEq, Repr

/-- What `dump_state` shows (60_exceptions.md R264; no layout is defined, log 10). -/
structure Snapshot where
  pc : Word
  i : Word
  v : Vector Byte 16
  dt : Byte
  st : Byte
  deriving DecidableEq, Repr

/-- What a transaction hands back to the host (60_exceptions.md R262; log 10). -/
inductive Reply where
  /-- `load`, `quit`, `press`, `release` hand back nothing. -/
  | nothing
  /-- `step` hands back `redraw_needed`, and the error if there is one. -/
  | report (redraw : Bool) (error : Option ErrRecord)
  /-- `dump_state` hands back a snapshot. -/
  | snapshot (d : Snapshot)
  deriving DecidableEq, Repr

/-- The host's transactions (60_exceptions.md R262). -/
inductive Transaction where
  | load (image : List Byte)
  | step
  | quit
  | press (k : Key)
  | release (k : Key)
  | dumpState
  deriving DecidableEq, Repr

/-- A grid of pixels: a list of rows from the top, each a list from the left (10_state.md R37). -/
abbrev Grid := List (List Bool)

/-- Memory: (address, byte) pairs in one canonical form (`Memory.wf`). -/
abbrev Memory := List Host.Cell

/-- The whole state of the machine. -/
structure State where
  /-- The general registers `V[0]` to `V[15]` (R21). -/
  v : Vector Byte 16
  /-- The index register `I` (R24). -/
  i : Word
  /-- The program counter (R25). -/
  pc : Word
  /-- The delay timer (R28). -/
  dt : Byte
  /-- The sound timer (R29). -/
  st : Byte
  /-- The call stack's sixteen entries (R30). -/
  stack : Vector Word 16
  /-- The call stack's depth, 0 to 16 (R30). -/
  sp : Fin 17
  /-- `MEM` (R32). -/
  mem : Memory
  /-- `MODE` (R33). -/
  mode : Mode
  /-- `ERR` (R34). -/
  err : Option ErrRecord
  /-- The construction parameters; no instruction and no transaction changes them (R36, R43; log 1, 3). -/
  params : Params
  /-- The Display's pixel grid `FB` (R37). -/
  fb : Grid
  /-- The Keypad's key vector `KEYS` (R38). -/
  keys : Vector Bool 16
  /-- The model's own: how many bytes of `RAND` have been drawn (log 8). -/
  draws : Nat
  /-- The model's own: the transactions the host issues next, the first one first; when there is none it issues
  `step` (log 9). -/
  host : List Transaction
  /-- The model's own: what the last transaction handed back (log 10). -/
  reply : Reply
  deriving DecidableEq, Repr

/-- Ways the machine can be stuck. There is none: every instruction, every opcode that is no instruction and every
transaction has a next state (R122, R130, R132, R250, R254; log 31). The fatal errors of R250 are next states. -/
inductive Fault where
  deriving DecidableEq, Repr

/-- Ways the model can give no meaning. -/
inductive Refusal where
  /-- An instruction with no meaning yet, refused by `exec`'s arm under its mnemonic. Safe. No arm answers so now. -/
  | notModelled (mnemonic : String)
  deriving DecidableEq, Repr

/-- The machine right after reset, which is `load` of an empty image into a newly constructed core (10_state.md R41;
70_reset_and_hazards.md R280, R282; log 28). Memory lists nothing: an unlisted address reads as the font or zero. -/
def State.reset : State where
  v := Vector.replicate 16 0#8
  i := 0x0000#16
  pc := 0x0200#16
  dt := 0x00#8
  st := 0x00#8
  stack := Vector.replicate 16 0x0000#16
  sp := 0
  mem := []
  mode := .running
  err := none
  params := Config.params
  fb := (List.range 32).map fun py => (List.range 64).map fun px => Config.fb0 px py
  keys := ⟨((List.range 16).map Config.keys0).toArray, rfl⟩
  draws := 0
  host := []
  reply := .nothing

end Sys2Proof.Machine
end

