-- ==== Sys2Proof/Machine/Ops.lean ====
section
/-! DEFINITION. The named operations every instruction is written over: memory, registers, the call stack, the
Display's and the Keypad's ports, the random source, the start and the end of a cycle, and taking a fatal error. -/

namespace Sys2Proof.Machine

/-- What a step answers. -/
abbrev Result := Host.Outcome State Fault Refusal

/-! ### Memory (20_memory.md) -/

/-- What an unlisted address reads as: the contents after a reset, which are the default font at 0x050 to 0x09F and zero
elsewhere (R70; 10_state.md R41, R42). PRESUMED for the font bytes (log 2). -/
def Memory.background (e : Nat) : Byte :=
  if h : 0x050 ≤ e ∧ e < 0x0A0 then Config.defaultFont[e - 0x050] else 0x00#8

/-- The byte listed for an address, if one is. -/
def Memory.lookup (e : Nat) : Memory → Option Byte
  | [] => none
  | (c, d) :: rest => if e = c then some d else Memory.lookup e rest

/-- List a byte for an address, keeping the addresses rising. -/
def Memory.insertCell (e : Nat) (b : Byte) : Memory → Memory
  | [] => [(e, b)]
  | (c, d) :: rest =>
    if e < c then (e, b) :: (c, d) :: rest
    else if e = c then (e, b) :: rest
    else (c, d) :: Memory.insertCell e b rest

/-- Take an address out of the list. -/
def Memory.eraseCell (e : Nat) : Memory → Memory
  | [] => []
  | (c, d) :: rest => if e = c then rest else (c, d) :: Memory.eraseCell e rest

/-- `MemRead(a, 1)`: every access reduces its address modulo 4096 (R62). -/
def Memory.read (m : Memory) (a : Nat) : Byte :=
  (Memory.lookup (a % 4096) m).getD (Memory.background (a % 4096))

/-- `MemWrite(a, 1, b)` (R62). An address that would list what it reads as anyway is taken out of the list. -/
def Memory.write (m : Memory) (a : Nat) (b : Byte) : Memory :=
  if b = Memory.background (a % 4096) then Memory.eraseCell (a % 4096) m
  else Memory.insertCell (a % 4096) b m

/-- Write bytes at `a`, `a + 1`, ..., ascending (R67). -/
def Memory.writeList (m : Memory) (a : Nat) : List Byte → Memory
  | [] => m
  | b :: bs => Memory.writeList (m.write a b) (a + 1) bs

/-- Read `n` bytes at `a`, `a + 1`, ..., ascending (R67). -/
def Memory.readList (m : Memory) (a n : Nat) : List Byte :=
  (List.range n).map fun k => m.read (a + k)

/-- The canonical form from address `lo` on: addresses strictly rising and below 4096, no entry equal to what an
unlisted address reads as. -/
def Memory.wfFrom (lo : Nat) : Memory → Bool
  | [] => true
  | (c, d) :: rest =>
    decide (lo ≤ c) && decide (c < 4096) && decide (d ≠ Memory.background c) && Memory.wfFrom (c + 1) rest

/-- The canonical form of memory. -/
def Memory.wf (m : Memory) : Bool := Memory.wfFrom 0 m

/-- `FX65`'s loop: `V[0]` to `V[n - 1]` receive the bytes at `a`, `a + 1`, ..., ascending (43_index_memory.md R205). -/
def Memory.loadRegs (m : Memory) (a : Nat) : Nat → Vector Byte 16 → Vector Byte 16
  | 0, v => v
  | n + 1, v => (Memory.loadRegs m a n v).setIfInBounds n (m.read (a + n))

/-! ### The Display's port (44_display.md R220) -/

/-- `GetPixel(px, py)`. -/
def Grid.pixel (g : Grid) (px py : Nat) : Bool := ((g[py]?.getD [])[px]?).getD false

/-- `TogglePixel(px, py)`: no other pixel changes. -/
def Grid.toggle (g : Grid) (px py : Nat) : Grid := g.modify py fun row => row.modify px fun b => !b

/-- `ClearDisplay()`: every pixel off. -/
def Grid.clear (g : Grid) : Grid := g.map fun row => row.map fun _ => false

/-- The grid has `h` rows of `w` pixels (10_state.md R37). -/
def Grid.shaped (w h : Nat) (g : Grid) : Bool := g.length == h && g.all fun row => row.length == w

namespace State

/-! ### Registers (10_state.md R21 to R29) -/

/-- Read `V[x]`. -/
def getV (s : State) (x : Reg) : Byte := s.v[x.val]

/-- `V[x] <- b`. -/
def setV (s : State) (x : Reg) (b : Byte) : State := { s with v := s.v.set x.val b }

/-- `I <- w`: all 16 bits are kept (R24). -/
def setI (s : State) (w : Word) : State := { s with i := w }

/-- `PC <- w`. -/
def setPc (s : State) (w : Word) : State := { s with pc := w }

/-- `DT <- b`. -/
def setDt (s : State) (b : Byte) : State := { s with dt := b }

/-- `ST <- b`. -/
def setSt (s : State) (b : Byte) : State := { s with st := b }

/-- `MODE <- m`. -/
def setMode (s : State) (m : Mode) : State := { s with mode := m }

/-- Replace memory. -/
def setMem (s : State) (m : Memory) : State := { s with mem := m }

/-- Replace the Display's grid. -/
def setFb (s : State) (g : Grid) : State := { s with fb := g }

/-- Replace the Keypad's key vector. -/
def setKeys (s : State) (k : Vector Bool 16) : State := { s with keys := k }

/-- Set what the transaction hands back. -/
def setReply (s : State) (r : Reply) : State := { s with reply := r }

/-- The cycle's `redraw` output becomes true (40_execution_cycle.md R129). -/
def requestRedraw (s : State) : State := s.setReply (.report true none)

/-- What the last transaction reported as `redraw_needed`; false if it reported nothing (10_state.md R41). -/
def redraw (s : State) : Bool :=
  match s.reply with
  | .report r _ => r
  | .nothing | .snapshot _ => false

/-! ### The call stack (10_state.md R31) -/

/-- Push a value; `none` when sixteen entries are live. -/
def push (s : State) (w : Word) : Option State :=
  if h : s.sp.val < 16 then
    some { s with stack := s.stack.set s.sp.val w, sp := ⟨s.sp.val + 1, by omega⟩ }
  else none

/-- Pop a value; `none` when no entry is live. The vacated entry keeps its bits (41_control_flow.md R152). -/
def pop (s : State) : Option (Word × State) :=
  if h : 0 < s.sp.val then
    some (s.stack[s.sp.val - 1], { s with sp := ⟨s.sp.val - 1, by omega⟩ })
  else none

/-- The live entries, oldest first (R30). -/
def liveStack (s : State) : List Word := s.stack.toList.take s.sp.val

/-! ### The Keypad's port and the random source -/

/-- `IsPressed(b)`: an id above 15 names no key and is not pressed (45_keypad_timers.md R230, D11; log 18). -/
def isPressed (s : State) (b : Byte) : Bool := if h : b.toNat < 16 then s.keys[b.toNat] else false

/-- `Draw8()`: one fresh byte, any value (42_alu.md R182; log 8). -/
def draw8 (s : State) : Byte × State := (Config.randByte s.draws, { s with draws := s.draws + 1 })

/-! ### The cycle (40_execution_cycle.md) -/

/-- Step 1, the fetch: two bytes, each address reduced on its own, high byte first (R122; 20_memory.md R64). -/
def fetch (s : State) : Word := s.mem.read s.pc.toNat ++ s.mem.read (s.pc.toNat + 1)

/-- Step 2, the advance: `PC <- (pc0 + 2) mod 65536` (R123), with `redraw` false until the instruction sets it (R125). -/
def beginCycle (s : State) : State := { s with pc := s.pc + 2, reply := .report false none }

/-- One timer's decrement: a timer at 0 stays 0 (10_state.md R28). -/
def tickTimer (b : Byte) : Byte := if b ≠ 0 then b - 1 else b

/-- Step 6, the tick: each timer on its own (R128). -/
def tick (s : State) : State := { s with dt := tickTimer s.dt, st := tickTimer s.st }

/-- Steps 6 and 7. A cycle abandoned by a fatal error has neither (R127). -/
def endCycle (s : State) : State := if s.mode = .faulted then s else s.tick

/-! ### Fatal errors (60_exceptions.md) -/

/-- Taking a fatal error raised in step 5 by the opcode `op` (R255): the advance of `PC` is undone, the mode becomes
`Faulted`, the error record names the error, the opcode and its address, and the host gets `redraw_needed = false` and
the error. Nothing else changes. There is no return from it but `load` (R257; `State.load` in Transactions.lean). -/
def raise (s : State) (k : ErrKind) (op : Word) : State :=
  let e : ErrRecord := { kind := k, opcode := op, pc := s.pc - 2 }
  { s with pc := s.pc - 2, mode := .faulted, err := some e, reply := .report false (some e) }

end State
end Sys2Proof.Machine
end

