-- ==== Sys2Proof/Machine/Operands.lean ====
section
/-! DEFINITION. The operand forms: the value an instruction takes its operand from where that is more than one register
or one immediate. Operands are those sampled when step 5 begins (40_execution_cycle.md R126). -/

namespace Sys2Proof.Machine

/-- The byte `8XY6` and `8XYE` shift: `vx` under `Q_SHIFT_VX_ONLY`, else `vy` (42_alu.md R179, R180). -/
def shiftSource (s : State) (x y : Reg) : Byte := if s.params.qShiftVxOnly then s.getV x else s.getV y

/-- The byte `BNNN` adds: `vx` under `Q_JUMP_VX`, else `v0` (41_control_flow.md R153). -/
def jumpOffset (s : State) (x : Reg) : Byte := if s.params.qJumpVx then s.getV x else s.getV 0

/-- `BNNN`'s target, a 16-bit sum (R153). -/
def offsetTarget (nnn : Imm12) (off : Byte) : Word := nnn.toWord + off.setWidth 16

/-- `FX29`'s address: the formula on all 8 bits (43_index_memory.md R202, D10; log 17). -/
def glyphAddress (b : Byte) : Word := BitVec.ofNat 16 (0x050 + 5 * b.toNat)

/-- `FX33`'s digits: hundreds, tens, ones (43_index_memory.md R203). -/
def decimalDigits (b : Byte) : List Byte := [b / 100#8, b / 10#8 % 10#8, b % 10#8]

/-- `FX1E`'s sum, an unbounded integer (43_index_memory.md R201). -/
def indexSum (i : Word) (b : Byte) : Nat := i.toNat + b.toNat

/-- Where `FX55` and `FX65` leave `I` after moving `x + 1` bytes (43_index_memory.md R204, R205). -/
def blockIndex (s : State) (x : Reg) : Word :=
  if s.params.qMemKeepI then s.i else s.i + BitVec.ofNat 16 (x.val + 1)

/-- The pixels one sprite row's 1 bits name, most significant bit first: `px = (vx + col) mod DISPLAY_W`,
`py = (vy + row) mod DISPLAY_H` on unbounded integers (44_display.md R222, D23; log 26). -/
def rowPixels (p : Params) (vx vy : Byte) (row : Nat) (b : Byte) : List (Nat × Nat) :=
  ((List.range 8).filter fun col => b.getLsbD (7 - col)).map fun col =>
    ((vx.toNat + col) % p.displayW, (vy.toNat + row) % p.displayH)

/-- The pixels a sprite's rows name from row `row` on, in the order they are visited: row 0 first, and within a row bit 7
first (R222; 20_memory.md R76). -/
def spritePixels (p : Params) (vx vy : Byte) (row : Nat) : List Byte → List (Nat × Nat)
  | [] => []
  | b :: bs => rowPixels p vx vy row b ++ spritePixels p vx vy (row + 1) bs

/-- Visit the pixels in order: read each, toggle it, and remember whether one was on (R222). -/
def xorPixels : List (Nat × Nat) → Grid → Bool → Grid × Bool
  | [], g, hit => (g, hit)
  | (px, py) :: rest, g, hit => xorPixels rest (g.toggle px py) (hit || g.pixel px py)

end Sys2Proof.Machine
end

