-- ==== Sys2Proof/Machine/Flags.lean ====
section
/-! DEFINITION. The values the seven flag-writing instructions give `V[15]` (10_state.md R22, R35). There is no other
flag and no status register. -/

namespace Sys2Proof.Machine

/-- `V[15]`, written as a flag: 1 or 0, always overwritten (R22). -/
def State.setFlag (s : State) (f : Bool) : State := s.setV 15 (if f then 1#8 else 0#8)

/-- `8XY4`: the 9-bit sum's carry (42_alu.md R176). -/
def carryFlag (vx vy : Byte) : Bool := decide (vx.toNat + vy.toNat > 255)

/-- `8XY5`: strictly greater (42_alu.md R177). -/
def subFlag (vx vy : Byte) : Bool := decide (vx.toNat > vy.toNat)

/-- `8XY7`: greater or equal (42_alu.md R178). -/
def subnFlag (vx vy : Byte) : Bool := decide (vy.toNat ≥ vx.toNat)

/-- The saturating difference `max(a - b, 0)` of both subtractions (R177, R178, R295; 90_conflicts.md C2). -/
def saturatingSub (a b : Byte) : Byte := if a.toNat > b.toNat then a - b else 0#8

/-- `8XY6`: the bit shifted out on the right (42_alu.md R179). -/
def shrFlag (src : Byte) : Bool := src.getLsbD 0

/-- `8XYE`: the bit shifted out on the left (42_alu.md R180). -/
def shlFlag (src : Byte) : Bool := src.getLsbD 7

/-- `FX1E`: the unreduced sum reaches the memory size (43_index_memory.md R201; 90_conflicts.md C1). -/
def indexFlag (i : Word) (b : Byte) : Bool := decide (indexSum i b ≥ 4096)

end Sys2Proof.Machine
end

