-- ==== Sys2Proof/Machine/Alu.lean ====
section
/-! DEFINITION. Step 5 of the register load, arithmetic, logic, shift and random instructions (42_alu.md). Operands are
sampled before any write; the writes happen in the order the rule lists them (40_execution_cycle.md R126, D8; log 15). -/

namespace Sys2Proof.Machine

/-- `6XNN` (R170). -/
def execLdI (x : Reg) (nn : Byte) (s : State) : Result := .next (s.setV x nn)

/-- `7XNN` (R171): wraps, no flag. -/
def execAddI (x : Reg) (nn : Byte) (s : State) : Result := .next (s.setV x (s.getV x + nn))

/-- `8XY0` (R172). -/
def execLdR (x y : Reg) (s : State) : Result := .next (s.setV x (s.getV y))

/-- `8XY1` (R173): `V[15]` is left as it is. -/
def execOr (x y : Reg) (s : State) : Result := .next (s.setV x (s.getV x ||| s.getV y))

/-- `8XY2` (R174): `V[15]` is left as it is. -/
def execAnd (x y : Reg) (s : State) : Result := .next (s.setV x (s.getV x &&& s.getV y))

/-- `8XY3` (R175): `V[15]` is left as it is. -/
def execXor (x y : Reg) (s : State) : Result := .next (s.setV x (s.getV x ^^^ s.getV y))

/-- `8XY4` (R176): the carry, then the sum modulo 256. -/
def execAddR (x y : Reg) (s : State) : Result :=
  .next ((s.setFlag (carryFlag (s.getV x) (s.getV y))).setV x (s.getV x + s.getV y))

/-- `8XY5` (R177): the flag, then the saturating difference. -/
def execSub (x y : Reg) (s : State) : Result :=
  .next ((s.setFlag (subFlag (s.getV x) (s.getV y))).setV x (saturatingSub (s.getV x) (s.getV y)))

/-- `8XY7` (R178): the flag, then the saturating reverse difference. -/
def execSubn (x y : Reg) (s : State) : Result :=
  .next ((s.setFlag (subnFlag (s.getV x) (s.getV y))).setV x (saturatingSub (s.getV y) (s.getV x)))

/-- `8XY6` (R179): the shifted byte, then the bit shifted out. -/
def execShr (x y : Reg) (s : State) : Result :=
  .next ((s.setV x (shiftSource s x y >>> 1)).setFlag (shrFlag (shiftSource s x y)))

/-- `8XYE` (R180): the shifted byte, then the bit shifted out. -/
def execShl (x y : Reg) (s : State) : Result :=
  .next ((s.setV x (shiftSource s x y <<< 1)).setFlag (shlFlag (shiftSource s x y)))

/-- `CXNN` (R181): one draw, whatever `nn` is. -/
def execRnd (x : Reg) (nn : Byte) (s : State) : Result := .next (s.draw8.2.setV x (s.draw8.1 &&& nn))

end Sys2Proof.Machine
end

