-- ==== Sys2Proof/Machine/ControlFlow.lean ====
section
/-! DEFINITION. Step 5 of the control-transfer instructions (41_control_flow.md). On entry `PC` already holds the address
of the next instruction. -/

namespace Sys2Proof.Machine

/-- A skip adds 2 to the already advanced `PC` when its condition holds (R158). -/
def skipIf (c : Bool) (s : State) : State := if c then s.setPc (s.pc + 2) else s

/-- `00EE` (R152): pop into `PC`, or `StackUnderflow` when no entry is live (60_exceptions.md R253). -/
def execRet (s : State) : Result :=
  match s.pop with
  | some (w, t) => .next (t.setPc w)
  | none => .next (s.raise .stackUnderflow (encode .ret))

/-- `1NNN` (R150). -/
def execJp (nnn : Imm12) (s : State) : Result := .next (s.setPc nnn.toWord)

/-- `2NNN` (R151): push the advanced `PC`, or `StackOverflow` when sixteen entries are live (60_exceptions.md R252). -/
def execCall (nnn : Imm12) (s : State) : Result :=
  match s.push s.pc with
  | some t => .next (t.setPc nnn.toWord)
  | none => .next (s.raise .stackOverflow (encode (.call nnn)))

/-- `3XNN` (R154). -/
def execSeI (x : Reg) (nn : Byte) (s : State) : Result := .next (skipIf (s.getV x == nn) s)

/-- `4XNN` (R155). -/
def execSneI (x : Reg) (nn : Byte) (s : State) : Result := .next (skipIf (s.getV x != nn) s)

/-- `5XY0` (R156). -/
def execSeR (x y : Reg) (s : State) : Result := .next (skipIf (s.getV x == s.getV y) s)

/-- `9XY0` (R157). -/
def execSneR (x y : Reg) (s : State) : Result := .next (skipIf (s.getV x != s.getV y) s)

/-- `BNNN` (R153). -/
def execJpOff (x : Reg) (nnn : Imm12) (s : State) : Result :=
  .next (s.setPc (offsetTarget nnn (jumpOffset s x)))

end Sys2Proof.Machine
end

