-- ==== Sys2Proof/Machine/Display.lean ====
section
/-! DEFINITION. Step 5 of the display instructions (44_display.md). -/

namespace Sys2Proof.Machine

/-- `00E0` (R221). -/
def execCls (s : State) : Result := .next (s.setFb s.fb.clear).requestRedraw

/-- The pixels `DXYN` visits: its `n` rows are read at `I`, `I + 1`, ..., all before the first is drawn (R222). -/
def drawnPixels (x y : Reg) (n : Nat) (s : State) : List (Nat × Nat) :=
  spritePixels s.params (s.getV x) (s.getV y) 0 (s.mem.readList s.i.toNat n)

/-- `DXYN` (R222): the sprite is placed by the sampled `V[x]` and `V[y]`; `V[15]` receives the collision flag. -/
def execDrw (x y : Reg) (n : Nat) (s : State) : Result :=
  let drawn := xorPixels (drawnPixels x y n s) s.fb false
  .next ((s.setFb drawn.1).setFlag drawn.2).requestRedraw

end Sys2Proof.Machine
end

