-- ==== Sys2Proof/Machine/IndexMemory.lean ====
section
/-! DEFINITION. Step 5 of the index-register and memory instructions (43_index_memory.md). -/

namespace Sys2Proof.Machine

/-- `ANNN` (R200). -/
def execLdIdx (nnn : Imm12) (s : State) : Result := .next (s.setI nnn.toWord)

/-- `FX1E` (R201): `I` keeps the sum modulo 65536; the flag tests the unreduced sum. -/
def execAddIdx (x : Reg) (s : State) : Result :=
  .next ((s.setI (BitVec.ofNat 16 (indexSum s.i (s.getV x)))).setFlag (indexFlag s.i (s.getV x)))

/-- `FX29` (R202). -/
def execFont (x : Reg) (s : State) : Result := .next (s.setI (glyphAddress (s.getV x)))

/-- `FX33` (R203): `I` is unchanged. -/
def execBcd (x : Reg) (s : State) : Result :=
  .next (s.setMem (s.mem.writeList s.i.toNat (decimalDigits (s.getV x))))

/-- `FX55` (R204). -/
def execStm (x : Reg) (s : State) : Result :=
  .next ((s.setMem (s.mem.writeList s.i.toNat (s.v.toList.take (x.val + 1)))).setI (blockIndex s x))

/-- `FX65` (R205). -/
def execLdm (x : Reg) (s : State) : Result :=
  .next ({ s with v := s.mem.loadRegs s.i.toNat (x.val + 1) s.v }.setI (blockIndex s x))

end Sys2Proof.Machine
end

