-- ==== Sys2Proof/Machine/KeypadTimers.lean ====
section
/-! DEFINITION. Step 5 of the keypad and timer instructions (45_keypad_timers.md). -/

namespace Sys2Proof.Machine

/-- `EX9E` (R231). -/
def execSkp (x : Reg) (s : State) : Result := .next (skipIf (s.isPressed (s.getV x)) s)

/-- `EXA1` (R232). -/
def execSknp (x : Reg) (s : State) : Result := .next (skipIf (!s.isPressed (s.getV x)) s)

/-- `FX07` (R234): the value before this cycle's tick. -/
def execLdFromDt (x : Reg) (s : State) : Result := .next (s.setV x s.dt)

/-- `FX0A` (R233), its entry: the wait ends at a `press` (`State.press` in Transactions.lean). -/
def execWaitkey (x : Reg) (s : State) : Result := .next (s.setMode (.waitingForKey x))

/-- `FX15` (R235): this cycle's tick follows. -/
def execLdDt (x : Reg) (s : State) : Result := .next (s.setDt (s.getV x))

/-- `FX18` (R236): this cycle's tick follows. -/
def execLdSt (x : Reg) (s : State) : Result := .next (s.setSt (s.getV x))

end Sys2Proof.Machine
end

