-- ==== Sys2Proof/Machine/Transactions.lean ====
section
/-! DEFINITION. The cycle as one function (40_execution_cycle.md R130) and the host's six transactions
(60_exceptions.md R262). Each transaction is atomic and none is inside a cycle (R262, D15; log 21). -/

namespace Sys2Proof.Machine
namespace State

/-- One cycle (R121, R130): fetch, advance, decode, execute, tick, report. An opcode that is no instruction raises
`UnrecognizedOpcode` in step 5 (R125; 60_exceptions.md R251). -/
def cycle (s : State) : Result :=
  match decode s.fetch with
  | .ok i =>
    match exec i s.beginCycle with
    | .next t => .next t.endCycle
    | .fault f => .fault f
    | .refused r => .refused r
  | .error _ => .next (s.beginCycle.raise .unrecognizedOpcode s.fetch)

/-- The `step` transaction (R132): one cycle in `Running`; in the other modes nothing changes and the host is told
`redraw_needed = false`, in `Faulted` with the recorded error (D21; log 14). -/
def hostStep (s : State) : Result :=
  match s.mode with
  | .running => s.cycle
  | .waitingForKey _ => .next (s.setReply (.report false none))
  | .halted => .next (s.setReply (.report false none))
  | .faulted => .next (s.setReply (.report false s.err))

/-- Memory after `load`: zero, then the font at 0x050, then the image at 0x200, verbatim (70_reset_and_hazards.md R280).
The empty list reads as zero outside the font area, and the 80 font bytes cover that area. -/
def loadedMemory (font : Vector Byte 80) (image : List Byte) : Memory :=
  (Memory.writeList [] 0x050 font.toList).writeList 0x200 image

/-- The `load(P)` transaction, the only reset (R280). The parameters, the Display, the Keypad, the entries of the empty
call stack and the random source are not touched (10_state.md R41; log 5, 8, 23). An image longer than 3584 bytes is
refused: no state changes (R281, D16; log 22). -/
def load (image : List Byte) (s : State) : State :=
  if image.length ≤ 3584 then
    { s with
      v := Vector.replicate 16 0#8
      i := 0x0000#16
      pc := 0x0200#16
      dt := 0x00#8
      st := 0x00#8
      sp := 0
      mem := loadedMemory s.params.font image
      mode := .running
      err := none
      reply := .nothing }
  else s.setReply .nothing

/-- The `quit()` transaction (60_exceptions.md R265). -/
def quit (s : State) : State :=
  match s.mode with
  | .running | .waitingForKey _ => (s.setMode .halted).setReply .nothing
  | .halted | .faulted => s.setReply .nothing

/-- The `press(k)` transaction (45_keypad_timers.md R230): the key becomes pressed, and a key-wait ends with the key's id
in the waiting register (R233). No tick, no fetch, no change to `PC`. -/
def press (k : Key) (s : State) : State :=
  let pressed := (s.setKeys (s.keys.set k.val true)).setReply .nothing
  match s.mode with
  | .waitingForKey x => (pressed.setV x (BitVec.ofNat 8 k.val)).setMode .running
  | .running | .halted | .faulted => pressed

/-- The `release(k)` transaction (R230): it never ends a wait. -/
def release (k : Key) (s : State) : State := (s.setKeys (s.keys.set k.val false)).setReply .nothing

/-- What `dump_state()` shows (60_exceptions.md R264). -/
def snapshot (s : State) : Snapshot := { pc := s.pc, i := s.i, v := s.v, dt := s.dt, st := s.st }

/-- The `dump_state()` transaction (R264): it works in every mode and changes nothing. -/
def dumpState (s : State) : State := s.setReply (.snapshot s.snapshot)

/-- One transaction (R262). -/
def transact (t : Transaction) (s : State) : Result :=
  match t with
  | .load image => .next (s.load image)
  | .step => s.hostStep
  | .quit => .next s.quit
  | .press k => .next (s.press k)
  | .release k => .next (s.release k)
  | .dumpState => .next s.dumpState

/-- The host's next transaction, done: the first of those it is still to issue, or `step` when there is none
(R262; log 9). -/
def issue (s : State) : Result :=
  match s.host with
  | [] => s.transact .step
  | t :: rest => { s with host := rest }.transact t

/-- The state with an instruction's bytes at `PC`, ready to run it as its next transaction (log 28). -/
def placeWord (s : State) (nbits w : Nat) : State :=
  { s with
    mem := s.mem.writeList s.pc.toNat (tableBytes nbits w)
    mode := .running
    err := none
    host := [] }

end State
end Sys2Proof.Machine
end

