-- ==== Sys2Proof/Machine/Step.lean ====
section
/-! DEFINITION. One step of the machine: one transaction of the host (60_exceptions.md R262). -/

namespace Sys2Proof.Machine

/-- One step: the host's next transaction. With none pending it is the `step` transaction, which in `Running` is one
cycle (40_execution_cycle.md R132; log 9). -/
def step (s : State) : Host.Outcome State Fault Refusal := s.issue

/-- `s` with an instruction stored where `step` fetches its next instruction, so that the very next step runs it. -/
def State.withFetchWord (s : State) (nbits w : Nat) : State := s.placeWord nbits w

end Sys2Proof.Machine
end

