-- ==== Sys2Proof/Safety.lean ====
section
/-! DEFINITION. The terms claims are stated in: what a piece of the run may change (`Footprint`), when the machine is about
to run an instruction, which instructions write what, and the invariant of every state a run reaches (`Inv`). -/

namespace Sys2Proof

/-! ### Which instructions write what -/

/-- The seven instructions that write `V[15]` as a flag (10_state.md R22, R35). -/
def Instr.writesFlag : Instr → Bool
  | .addR _ _ | .sub _ _ | .subn _ _ | .shr _ _ | .shl _ _ | .addIdx _ | .drw _ _ _ => true
  | .cls | .ret | .jp _ | .call _ | .seI _ _ | .sneI _ _ | .seR _ _ | .ldI _ _ | .addI _ _ | .ldR _ _
  | .or _ _ | .and _ _ | .xor _ _ | .sneR _ _ | .ldIdx _ | .jpOff _ _ | .rnd _ _ | .skp _ | .sknp _
  | .ldFromDt _ | .waitkey _ | .ldDt _ | .ldSt _ | .font _ | .bcd _ | .stm _ | .ldm _ => false

/-- The general registers an instruction writes other than as a flag, in its own cycle (10_state.md R23). -/
def Instr.dests : Instr → List Reg
  | .ldI x _ | .addI x _ | .ldR x _ | .or x _ | .and x _ | .xor x _ | .addR x _ | .sub x _ | .shr x _
  | .subn x _ | .shl x _ | .rnd x _ | .ldFromDt x => [x]
  | .ldm x => (List.finRange 16).filter fun j => j ≤ x
  | .cls | .ret | .jp _ | .call _ | .seI _ _ | .sneI _ _ | .seR _ _ | .sneR _ _ | .ldIdx _ | .jpOff _ _
  | .drw _ _ _ | .skp _ | .sknp _ | .waitkey _ | .ldDt _ | .ldSt _ | .addIdx _ | .font _ | .bcd _ | .stm _ => []

/-- The two instructions that report a redraw (40_execution_cycle.md R129). -/
def Instr.redraws : Instr → Bool
  | .cls | .drw _ _ _ => true
  | .ret | .jp _ | .call _ | .seI _ _ | .sneI _ _ | .seR _ _ | .ldI _ _ | .addI _ _ | .ldR _ _ | .or _ _
  | .and _ _ | .xor _ _ | .addR _ _ | .sub _ _ | .shr _ _ | .subn _ _ | .shl _ _ | .sneR _ _ | .ldIdx _
  | .jpOff _ _ | .rnd _ _ | .skp _ | .sknp _ | .ldFromDt _ | .waitkey _ | .ldDt _ | .ldSt _ | .addIdx _
  | .font _ | .bcd _ | .stm _ | .ldm _ => false

/-- The two instructions that can raise a fatal error (60_exceptions.md R254). -/
def Instr.canRaise : Instr → Bool
  | .call _ | .ret => true
  | .cls | .jp _ | .seI _ _ | .sneI _ _ | .seR _ _ | .ldI _ _ | .addI _ _ | .ldR _ _ | .or _ _
  | .and _ _ | .xor _ _ | .addR _ _ | .sub _ _ | .shr _ _ | .subn _ _ | .shl _ _ | .sneR _ _ | .ldIdx _
  | .jpOff _ _ | .rnd _ _ | .drw _ _ _ | .skp _ | .sknp _ | .ldFromDt _ | .waitkey _ | .ldDt _ | .ldSt _
  | .addIdx _ | .font _ | .bcd _ | .stm _ | .ldm _ => false

namespace Machine

/-! ### Frames -/

/-- What may change. A field left at its default says "unchanged". The parameters and the host's pending transactions are
not listed: no instruction changes them. -/
structure Footprint where
  /-- General registers that may change. -/
  regs : List Reg := []
  /-- Effective addresses (below 4096) of the bytes stored. -/
  stored : List Nat := []
  i : Bool := false
  pc : Bool := false
  dt : Bool := false
  st : Bool := false
  /-- The call stack's entries and depth. -/
  stack : Bool := false
  mode : Bool := false
  err : Bool := false
  fb : Bool := false
  keys : Bool := false
  draws : Bool := false
  reply : Bool := false

/-- Going from `s` to `t` changes nothing outside the footprint. Memory is compared through the read of one byte. -/
structure Footprint.Covers (c : Footprint) (s t : State) : Prop where
  regs : ∀ j : Reg, j ∉ c.regs → t.getV j = s.getV j
  mem : ∀ a : Nat, a % 4096 ∉ c.stored → t.mem.read a = s.mem.read a
  i : c.i = false → t.i = s.i
  pc : c.pc = false → t.pc = s.pc
  dt : c.dt = false → t.dt = s.dt
  st : c.st = false → t.st = s.st
  stack : c.stack = false → t.stack = s.stack ∧ t.sp = s.sp
  mode : c.mode = false → t.mode = s.mode
  err : c.err = false → t.err = s.err
  fb : c.fb = false → t.fb = s.fb
  keys : c.keys = false → t.keys = s.keys
  draws : c.draws = false → t.draws = s.draws
  reply : c.reply = false → t.reply = s.reply
  params : t.params = s.params
  host : t.host = s.host

/-! ### What happens next -/

/-- The next transaction is `step`, and `rest` are the transactions after it (60_exceptions.md R262; log 9). -/
def State.StepsThen (s : State) (rest : List Transaction) : Prop :=
  (s.host = [] ∧ rest = []) ∨ s.host = .step :: rest

/-- The next transaction is `step`, the core is running, and the word at `PC` decodes to `i`. -/
def State.AboutToRun (s : State) (i : Instr) : Prop :=
  s.host = [] ∧ s.mode = .running ∧ decode s.fetch = .ok i

/-! ### Drawing -/

/-- How many 1 bits of the `n`-row sprite at `I`, placed by `V[x]` and `V[y]`, fall on the pixel (px, py)
(44_display.md R222; addresses reduce by D4, log 11; coordinates are unbounded by D23, log 26). -/
def State.spriteBitsOn (s : State) (x y : Reg) (n px py : Nat) : Nat :=
  (List.range n ×ˢ List.range 8).countP fun (row, col) =>
    (s.mem.read (s.i.toNat + row)).getLsbD (7 - col) &&
    decide (((s.getV x).toNat + col) % s.params.displayW = px) &&
    decide (((s.getV y).toNat + row) % s.params.displayH = py)

/-! ### The invariant -/

/-- Why the instruction at `PC` raises the error `k`: the causes of 60_exceptions.md R251 to R253. -/
def ErrKind.CausedAt (k : ErrKind) (s : State) : Prop :=
  match k with
  | .unrecognizedOpcode => decode s.fetch = .error (.illegal s.fetch)
  | .stackOverflow => s.sp = 16 ∧ ∃ nnn, decode s.fetch = .ok (.call nnn)
  | .stackUnderflow => s.sp = 0 ∧ decode s.fetch = .ok .ret

/-- What holds at reset and is kept by every step. -/
structure Inv (s : State) : Prop where
  /-- Memory is in its canonical form. -/
  memCanonical : s.mem.wf = true
  /-- The display has at least one pixel (00_scope.md R7). -/
  displayPositive : 0 < s.params.displayW ∧ 0 < s.params.displayH
  /-- The grid has the display's size (10_state.md R37). -/
  gridShaped : s.fb.shaped s.params.displayW s.params.displayH = true
  /-- There is an error record in `Faulted` and in no other mode (10_state.md R34). -/
  errWhenFaulted : s.err.isSome = true ↔ s.mode = .faulted
  /-- The error record is that of the instruction at `PC`, and its cause still stands, so that the same `step` would
  raise the same error again (60_exceptions.md R255, R257). -/
  errPrecise : ∀ e, s.err = some e → e.pc = s.pc ∧ e.opcode = s.fetch ∧ e.kind.CausedAt s

/-- A run is safe as long as no fatal error has been raised (60_exceptions.md R250). -/
def State.Safe (s : State) : Prop := s.mode ≠ .faulted

end Machine
end Sys2Proof
end

