-- ==== Sys2Proof/Certificates/Slice0/Obligations.lean ====
section
/-! DEFINITION. The statements for the provers: what each instruction and each transaction does and leaves unchanged,
what holds of every instruction and of every step, and that decoding and encoding agree. In the result statements `s` is
the state at the start of step 5 of the cycle, where `PC` is already advanced (40_execution_cycle.md R125). -/

open Sys2Proof Sys2Proof.Machine

/-! ### Encoding and decoding -/

/-- R91: the six fields of every opcode, and how they overlap. -/
def Obligations.FieldsOfEveryOpcode : Prop :=
  ∀ op : Word,
    (extract op).top.toNat = op.toNat / 2 ^ 12 ∧
    (extract op).x.val = op.toNat / 2 ^ 8 % 16 ∧
    (extract op).y.val = op.toNat / 2 ^ 4 % 16 ∧
    (extract op).n.toNat = op.toNat % 16 ∧
    (extract op).nn.toNat = op.toNat % 256 ∧
    (extract op).nnn.toNat = op.toNat % 4096 ∧
    (extract op).nn.toNat = (extract op).y.val * 16 + (extract op).n.toNat ∧
    (extract op).nnn.toNat = (extract op).x.val * 256 + (extract op).nn.toNat

/-- 30_encoding.md sections 1 to 3: decoding the opcode, or the bytes, of a well-formed instruction gives it back, with
every operand at every value its field admits. -/
def Obligations.DecodeEncodeRoundTrip : Prop :=
  ∀ i : Instr, i.wellFormed = true →
    decode (encode i) = .ok i ∧ ∀ rest : List Byte, decodeBytes (encodeBytes i ++ rest) = .ok (i, rest)

/-- 30_encoding.md section 2: an instruction the decoder yields is well formed, and its opcode is the one decoded, so no
two opcodes decode to one instruction. -/
def Obligations.EncodeDecodeRoundTrip : Prop :=
  ∀ (op : Word) (i : Instr), decode op = .ok i → i.wellFormed = true ∧ encode i = op

/-- 30_encoding.md section 3: the nested dispatch of R95 agrees with the opcode map of R96: an opcode that decodes to `i`
selects the row of `i` and no other, and one that selects no row is illegal. -/
def Obligations.DecoderAgreesWithOpcodeMap : Prop :=
  ∀ op : Word,
    opcodeMap.filter (fun r => r.selects op) =
      match decode op with
      | .ok i => [i.row]
      | .error _ => []

/-- 95_test_vectors.md section 2: some opcodes and what they decode to. A sanity statement. -/
def Obligations.SampleOpcodesDecode : Prop :=
  decode 0x00E0 = .ok .cls ∧ decode 0x10E0 = .ok (.jp 0x0E0) ∧ decode 0x5AB0 = .ok (.seR 10 11) ∧
  decode 0x8AB6 = .ok (.shr 10 11) ∧ decode 0xD125 = .ok (.drw 1 2 5) ∧ decode 0xE59E = .ok (.skp 5) ∧
  decode 0xF51E = .ok (.addIdx 5) ∧ decode 0x0000 = .error (.illegal 0x0000) ∧
  decode 0x5AB1 = .error (.illegal 0x5AB1) ∧ decode 0xFFFF = .error (.illegal 0xFFFF)

/-! ### The cycle -/

/-- 40_execution_cycle.md section 2: when the next transaction is `step`, the core is running and the word at `PC`
decodes to `i`, the step is `exec i` on the state with `PC` advanced by 2 and `redraw` false, and then, unless a fatal
error was raised, each timer that is not 0 goes down by 1. (That `PC` is a free 16-bit register is the spec's D5, log 12;
the tick is D20, log 24; the field `reply` is the model's, log 10.) -/
def Obligations.StepRunsTheDecodedInstruction : Prop :=
  ∀ (s : State) (rest : List Transaction) (i : Instr),
    s.StepsThen rest → s.mode = .running → decode s.fetch = .ok i →
    step s =
      match exec i { s with pc := s.pc + 2, reply := .report false none, host := rest } with
      | .next t =>
        .next (if t.mode = .faulted then t
          else { t with
            dt := if t.dt = 0 then 0 else t.dt - 1
            st := if t.st = 0 then 0 else t.st - 1 })
      | .fault f => .fault f
      | .refused r => .refused r

/-- 20_memory.md sections 1 and 2: the fetch reads two bytes, high byte first, each at its address modulo 4096 (the
reduction is the spec's D4, log 11), at any parity of `PC` (D5, log 12). -/
def Obligations.FetchIsBigEndian : Prop :=
  ∀ s : State, s.fetch.toNat =
    (s.mem.read (s.pc.toNat % 4096)).toNat * 256 + (s.mem.read ((s.pc.toNat + 1) % 4096)).toNat

/-- 40_execution_cycle.md section 2, 60_exceptions.md section 5: every step of every state answers a next state: an
instruction, an illegal opcode, a wait, a stop and each transaction of the host. -/
def Obligations.EveryStepAnswersANextState : Prop :=
  ∀ s : State, ∃ t : State, step s = .next t

/-- 40_execution_cycle.md section 3 (the spec's D7, D13, D21, log 14, 20): a `step` taken in the key-wait, in `Halted` or
in `Faulted` changes nothing of the machine and reports no redraw, in `Faulted` with the recorded error. -/
def Obligations.StepOutsideRunningChangesNothing : Prop :=
  ∀ (s : State) (rest : List Transaction), s.StepsThen rest → s.mode ≠ .running →
    step s = .next
      { s with
        host := rest
        reply := .report false (if s.mode = .faulted then s.err else none) }

/-- 40_execution_cycle.md section 2 (the tick is the spec's D20, log 24): a running step that raises no fatal error ticks
both timers exactly once, whatever the instruction, after its effect: only `FX15` and `FX18` make a timer end at
something other than one below where it began. -/
def Obligations.TimersTickOncePerCycle : Prop :=
  ∀ (s t : State) (i : Instr), s.AboutToRun i → step s = .next t → t.mode ≠ .faulted →
    t.dt.toNat = (match i with | .ldDt x => (s.getV x).toNat | _ => s.dt.toNat) - 1 ∧
    t.st.toNat = (match i with | .ldSt x => (s.getV x).toNat | _ => s.st.toNat) - 1

/-! ### Fatal errors -/

/-- 60_exceptions.md sections 1 and 2 (the restored `PC` and the mode `Faulted` are the spec's D6, D7, log 13, 14): a
running step raises a fatal error exactly when the word at `PC` is no instruction, is a call with sixteen live entries,
or is a return with none; and then the state is the state before the cycle with the mode, the error record and the reply
set. -/
def Obligations.FatalErrorsArePrecise : Prop :=
  ∀ (s t : State) (rest : List Transaction), s.StepsThen rest → s.mode = .running → step s = .next t →
    (t.mode = .faulted ↔ ∃ k : ErrKind, k.CausedAt s) ∧
    ∀ k : ErrKind, k.CausedAt s →
      t = { s with
            host := rest
            mode := .faulted
            err := some ⟨k, s.fetch, s.pc⟩
            reply := .report false (some ⟨k, s.fetch, s.pc⟩) }

/-! ### The mode machine and the host's transactions -/

/-- 40_execution_cycle.md section 3 (the spec's D7, D13, D16, D21, D26, log 14, 20, 22): the transitions of `MODE`; there
are no others; and in `Faulted` the error record stands until a `load` that is not refused. -/
def Obligations.ModeTransitions : Prop :=
  ∀ s t : State, step s = .next t →
    (s.mode = .faulted → (t.mode = .faulted ∧ t.err = s.err) ∨ (t.mode = .running ∧ t.err = none)) ∧
    match s.host.head?.getD .step, s.mode with
    | .load image, m => t.mode = if image.length ≤ 3584 then .running else m
    | .step, .running =>
      ((∃ k : ErrKind, k.CausedAt s) ∧ t.mode = .faulted) ∨
      ((¬∃ k : ErrKind, k.CausedAt s) ∧
        t.mode = match decode s.fetch with
          | .ok (.waitkey x) => .waitingForKey x
          | _ => .running)
    | .press _, .waitingForKey _ => t.mode = .running
    | .quit, .running => t.mode = .halted
    | .quit, .waitingForKey _ => t.mode = .halted
    | _, m => t.mode = m

/-- 40_execution_cycle.md section 3: in `Halted` nothing of the core changes but by a `load` that is not refused,
`dump_state` still shows the registers, and no instruction halts. (That a `load` of more than 3584 bytes is refused and
changes no state is the spec's D16, log 22; that `step` and `quit` do nothing in `Halted` is its D21 and D26, log 14;
`host` and `reply` are the model's own fields, log 9, 10.) -/
def Obligations.HaltedIsTerminal : Prop :=
  (∀ s t : State, s.mode = .halted → step s = .next t →
    (∃ image rest, s.host = .load image :: rest ∧ image.length ≤ 3584 ∧ t.mode = .running) ∨
    ∃ (keys : Vector Bool 16) (rest : List Transaction) (r : Reply),
      t = { s with keys := keys, host := rest, reply := r }) ∧
  (∀ s : State, s.mode = .halted → s.host.head? = some .dumpState → ∃ t : State, step s = .next t ∧
    t.reply = .snapshot { pc := s.pc, i := s.i, v := s.v, dt := s.dt, st := s.st }) ∧
  ∀ (i : Instr) (s t : State), exec i s = .next t → s.mode ≠ .halted → t.mode ≠ .halted

/-- R264: `dump_state` shows `PC`, `I`, the registers and both timers as they stand, in every mode, and changes nothing
(`host` and `reply` are the model's own fields, log 9, 10). -/
def Obligations.DumpStateShowsAndChangesNothing : Prop :=
  ∀ (s : State) (rest : List Transaction), s.host = .dumpState :: rest → ∃ t : State, step s = .next t ∧
    t = { s with host := rest, reply := t.reply } ∧
    ∃ d : Snapshot, t.reply = .snapshot d ∧ d.pc = s.pc ∧ d.i = s.i ∧ d.dt = s.dt ∧ d.st = s.st ∧
      ∀ j : Reg, d.v[j.val] = s.getV j

/-- 70_reset_and_hazards.md section 1 (zero for what the source does not name is the spec's D3, log 4; the untouched
Display and Keypad are D17, log 23; the refusal is D16, log 22): what `load` of an image of at most 3584 bytes leaves,
byte for byte of memory; a longer image changes no state (`host` and `reply` are the model's own fields, log 9, 10). -/
def Obligations.LoadResetsTheCore : Prop :=
  (∀ (s : State) (image : List Byte) (rest : List Transaction), s.host = .load image :: rest →
    3584 < image.length → step s = .next { s with host := rest, reply := .nothing }) ∧
  ∀ (s : State) (image : List Byte) (rest : List Transaction),
    s.host = .load image :: rest → image.length ≤ 3584 → ∃ t : State, step s = .next t ∧
      (∀ j : Reg, t.getV j = 0) ∧ t.i = 0 ∧ t.pc = 0x200 ∧ t.dt = 0 ∧ t.st = 0 ∧ t.sp = 0 ∧
      t.mode = .running ∧ t.err = none ∧
      t.params = s.params ∧ t.fb = s.fb ∧ t.keys = s.keys ∧ t.host = rest ∧
      (∀ j : Nat, (h : j < image.length) → t.mem.read (0x200 + j) = image[j]) ∧
      (∀ j : Nat, (h : j < 80) → t.mem.read (0x050 + j) = s.params.font[j]) ∧
      ∀ a : Nat, a < 4096 → ¬(0x050 ≤ a ∧ a < 0x0A0) → ¬(0x200 ≤ a ∧ a < 0x200 + image.length) →
        t.mem.read a = 0

/-- R283: after a `load` the core is running at 0x200 and the first fetch is the first two bytes of the image. -/
def Obligations.ExecutionBeginsAtTheImage : Prop :=
  ∀ (s : State) (hi lo : Byte) (tail : List Byte) (rest : List Transaction),
    s.host = .load (hi :: lo :: tail) :: rest → tail.length ≤ 3582 → ∃ t : State, step s = .next t ∧
      t.mode = .running ∧ t.pc = 0x200 ∧ t.fetch = hi ++ lo

/-- 60_exceptions.md section 5 (its effect in `Faulted` is the spec's D26, log 14): `quit` makes a running or waiting core
`Halted` and changes nothing else. -/
def Obligations.QuitHaltsOnlyAHealthyCore : Prop :=
  ∀ (s : State) (rest : List Transaction), s.host = .quit :: rest → ∃ t : State, step s = .next t ∧
    t = { s with host := rest, reply := .nothing, mode := t.mode } ∧
    (s.mode = .faulted → t.mode = .faulted) ∧ (s.mode ≠ .faulted → t.mode = .halted)

/-- 45_keypad_timers.md sections 1 and 3 (the spec's D13, log 20): a press makes its key pressed and no other; in the
key-wait it puts the key's id in the waiting register and makes the core running; it changes nothing else, so `PC` and
the timers stand. -/
def Obligations.PressEndsAKeyWait : Prop :=
  ∀ (s : State) (k : Key) (rest : List Transaction), s.host = .press k :: rest → ∃ t : State, step s = .next t ∧
    t.keys[k.val] = true ∧ (∀ j : Key, j ≠ k → t.keys[j.val] = s.keys[j.val]) ∧ t.host = rest ∧
    (∀ x : Reg, s.mode = .waitingForKey x →
      (t.getV x).toNat = k.val ∧ t.mode = .running ∧
      Footprint.Covers { regs := [x], mode := true, keys := true, reply := true } { s with host := rest } t) ∧
    ((∀ x : Reg, s.mode ≠ .waitingForKey x) →
      Footprint.Covers { keys := true, reply := true } { s with host := rest } t)

/-- 45_keypad_timers.md section 1 (the spec's D13, log 20): a release makes its key not pressed, changes nothing else and
never ends a wait. -/
def Obligations.ReleaseNeverEndsAWait : Prop :=
  ∀ (s : State) (k : Key) (rest : List Transaction), s.host = .release k :: rest → ∃ t : State, step s = .next t ∧
    t.keys[k.val] = false ∧ (∀ j : Key, j ≠ k → t.keys[j.val] = s.keys[j.val]) ∧
    t = { s with host := rest, reply := .nothing, keys := t.keys }

/-! ### Control transfer -/

/-- R150, R153: `1NNN` puts the zero-extended immediate in `PC`; `BNNN` adds `V[0]`, or with `Q_JUMP_VX` the register its
decoder kept, to it, and the sum never reaches 65536. The register kept is the top digit of the address for every
well-formed `BNNN`. -/
def Obligations.JumpResults : Prop :=
  (∀ (nnn : Imm12) (s : State), ∃ t : State, exec (.jp nnn) s = .next t ∧
    t.pc.toNat = nnn.toNat ∧ Footprint.Covers { pc := true } s t) ∧
  ∀ (x : Reg) (nnn : Imm12) (s : State), ∃ t : State, exec (.jpOff x nnn) s = .next t ∧
    t.pc.toNat = nnn.toNat + (s.getV (if s.params.qJumpVx then x else 0)).toNat ∧
    ((Instr.jpOff x nnn).wellFormed = true → x.val = nnn.toNat / 256) ∧
    Footprint.Covers { pc := true } s t

/-- R154, R155, R156, R157: the skips on an immediate and on two registers. -/
def Obligations.SkipResults : Prop :=
  (∀ (x : Reg) (nn : Byte) (s : State),
    (∃ t : State, exec (.seI x nn) s = .next t ∧
      t.pc.toNat = (if s.getV x = nn then s.pc.toNat + 2 else s.pc.toNat) % 65536 ∧
      Footprint.Covers { pc := true } s t) ∧
    ∃ t : State, exec (.sneI x nn) s = .next t ∧
      t.pc.toNat = (if s.getV x ≠ nn then s.pc.toNat + 2 else s.pc.toNat) % 65536 ∧
      Footprint.Covers { pc := true } s t) ∧
  ∀ (x y : Reg) (s : State),
    (∃ t : State, exec (.seR x y) s = .next t ∧
      t.pc.toNat = (if s.getV x = s.getV y then s.pc.toNat + 2 else s.pc.toNat) % 65536 ∧
      Footprint.Covers { pc := true } s t) ∧
    ∃ t : State, exec (.sneR x y) s = .next t ∧
      t.pc.toNat = (if s.getV x ≠ s.getV y then s.pc.toNat + 2 else s.pc.toNat) % 65536 ∧
      Footprint.Covers { pc := true } s t

/-- R31: a call pushes and a return pops; each tests its limit first; no other instruction touches the stack. -/
def Obligations.StackOperations : Prop :=
  (∀ (nnn : Imm12) (s : State), s.sp.val < 16 → ∃ t : State, exec (.call nnn) s = .next t ∧
    t.liveStack = s.liveStack ++ [s.pc] ∧ t.sp.val = s.sp.val + 1) ∧
  (∀ (nnn : Imm12) (s : State), s.sp = 16 → ∃ t : State, exec (.call nnn) s = .next t ∧
    t.stack = s.stack ∧ t.sp = s.sp ∧ ∃ e : ErrRecord, t.err = some e ∧ e.kind = .stackOverflow) ∧
  (∀ s : State, 0 < s.sp.val → ∃ t : State, exec .ret s = .next t ∧
    s.liveStack = t.liveStack ++ [t.pc] ∧ t.sp.val = s.sp.val - 1) ∧
  (∀ s : State, s.sp = 0 → ∃ t : State, exec .ret s = .next t ∧
    t.stack = s.stack ∧ t.sp = s.sp ∧ ∃ e : ErrRecord, t.err = some e ∧ e.kind = .stackUnderflow) ∧
  ∀ (i : Instr) (s t : State), i.canRaise = false → exec i s = .next t → t.stack = s.stack ∧ t.sp = s.sp

/-- 41_control_flow.md, `2NNN` and `00EE` (the restored `PC` and the mode are the spec's D6, D7, log 13, 14): what a call and
a return leave; a call on a full stack and a return on an empty one enter `Faulted` with the error, the opcode and the
instruction's own address, and change nothing else. -/
def Obligations.CallAndReturnResults : Prop :=
  (∀ (nnn : Imm12) (s : State), (h : s.sp.val < 16) → ∃ t : State, exec (.call nnn) s = .next t ∧
    t.pc.toNat = nnn.toNat ∧ t.stack[s.sp.val] = s.pc ∧
    (∀ j : Nat, (h : j < 16) → j ≠ s.sp.val → t.stack[j] = s.stack[j]) ∧ t.sp.val = s.sp.val + 1 ∧
    Footprint.Covers { pc := true, stack := true } s t) ∧
  (∀ s : State, (h : 0 < s.sp.val) → ∃ t : State, exec .ret s = .next t ∧
    t.pc = s.stack[s.sp.val - 1] ∧ t.stack = s.stack ∧ t.sp.val = s.sp.val - 1 ∧
    Footprint.Covers { pc := true, stack := true } s t) ∧
  (∀ (nnn : Imm12) (s : State), s.sp = 16 → ∃ t : State, exec (.call nnn) s = .next t ∧
    t.mode = .faulted ∧ t.pc = s.pc - 2 ∧ t.err = some ⟨.stackOverflow, encode (.call nnn), s.pc - 2⟩ ∧
    t.reply = .report false t.err ∧
    Footprint.Covers { pc := true, mode := true, err := true, reply := true } s t) ∧
  ∀ s : State, s.sp = 0 → ∃ t : State, exec .ret s = .next t ∧
    t.mode = .faulted ∧ t.pc = s.pc - 2 ∧ t.err = some ⟨.stackUnderflow, 0x00EE, s.pc - 2⟩ ∧
    t.reply = .report false t.err ∧
    Footprint.Covers { pc := true, mode := true, err := true, reply := true } s t

/-- 41_control_flow.md, `00EE`: a return undoes the call before it: control goes to the instruction after the call, and
the live entries are those before the call. -/
def Obligations.ReturnUndoesTheCall : Prop :=
  ∀ (nnn : Imm12) (s t u : State), s.sp.val < 16 → exec (.call nnn) s = .next t → u.stack = t.stack → u.sp = t.sp →
    ∃ r : State, exec .ret u = .next r ∧ r.pc = s.pc ∧ r.liveStack = s.liveStack

/-! ### Loads, arithmetic, logic, shifts, random -/

/-- R170, R171, R172: load immediate; add immediate, which wraps modulo 256 and sets no flag; copy. -/
def Obligations.LoadCopyAndAddImmediateResults : Prop :=
  (∀ (x : Reg) (nn : Byte) (s : State),
    (∃ t : State, exec (.ldI x nn) s = .next t ∧ t.getV x = nn ∧ Footprint.Covers { regs := [x] } s t) ∧
    ∃ t : State, exec (.addI x nn) s = .next t ∧
      (t.getV x).toNat = ((s.getV x).toNat + nn.toNat) % 256 ∧ Footprint.Covers { regs := [x] } s t) ∧
  ∀ (x y : Reg) (s : State), ∃ t : State, exec (.ldR x y) s = .next t ∧
    t.getV x = s.getV y ∧ Footprint.Covers { regs := [x] } s t

/-- R173, R174, R175: the logic instructions, bit by bit; `V[15]` is left as it is unless it is the destination. -/
def Obligations.LogicResults : Prop :=
  ∀ (x y : Reg) (s : State),
    (∃ t : State, exec (.or x y) s = .next t ∧
      (∀ k < 8, (t.getV x).getLsbD k = ((s.getV x).getLsbD k || (s.getV y).getLsbD k)) ∧
      Footprint.Covers { regs := [x] } s t) ∧
    (∃ t : State, exec (.and x y) s = .next t ∧
      (∀ k < 8, (t.getV x).getLsbD k = ((s.getV x).getLsbD k && (s.getV y).getLsbD k)) ∧
      Footprint.Covers { regs := [x] } s t) ∧
    ∃ t : State, exec (.xor x y) s = .next t ∧
      (∀ k < 8, (t.getV x).getLsbD k = ((s.getV x).getLsbD k ^^ (s.getV y).getLsbD k)) ∧
      Footprint.Covers { regs := [x] } s t

/-- 42_alu.md section 3 (that the sum survives the flag when `x = 15` is the spec's D8, log 15): `8XY4`. -/
def Obligations.AddWithCarryResult : Prop :=
  ∀ (x y : Reg) (s : State), ∃ t : State, exec (.addR x y) s = .next t ∧
    (t.getV x).toNat = ((s.getV x).toNat + (s.getV y).toNat) % 256 ∧
    (x ≠ 15 → (t.getV 15).toNat = if (s.getV x).toNat + (s.getV y).toNat > 255 then 1 else 0) ∧
    Footprint.Covers { regs := [x, 15] } s t

/-- 42_alu.md section 3 (that the difference survives the flag when `x = 15` is the spec's D8, log 15): both subtractions
saturate at 0; `8XY5`'s flag is strict and `8XY7`'s is not. (Natural subtraction stops at 0.) -/
def Obligations.SubtractionResults : Prop :=
  ∀ (x y : Reg) (s : State),
    (∃ t : State, exec (.sub x y) s = .next t ∧
      (t.getV x).toNat = (s.getV x).toNat - (s.getV y).toNat ∧
      (x ≠ 15 → (t.getV 15).toNat = if (s.getV x).toNat > (s.getV y).toNat then 1 else 0) ∧
      Footprint.Covers { regs := [x, 15] } s t) ∧
    ∃ t : State, exec (.subn x y) s = .next t ∧
      (t.getV x).toNat = (s.getV y).toNat - (s.getV x).toNat ∧
      (x ≠ 15 → (t.getV 15).toNat = if (s.getV y).toNat ≥ (s.getV x).toNat then 1 else 0) ∧
      Footprint.Covers { regs := [x, 15] } s t

/-- 42_alu.md section 4 (that the flag survives the result when `x = 15` is the spec's D8, log 15): the shifts by one,
logical, of the register the quirk selects. -/
def Obligations.ShiftResults : Prop :=
  ∀ (x y : Reg) (s : State),
    (∃ t : State, exec (.shr x y) s = .next t ∧
      (x ≠ 15 → (t.getV x).toNat = (s.getV (if s.params.qShiftVxOnly then x else y)).toNat / 2) ∧
      (t.getV 15).toNat = (s.getV (if s.params.qShiftVxOnly then x else y)).toNat % 2 ∧
      Footprint.Covers { regs := [x, 15] } s t) ∧
    ∃ t : State, exec (.shl x y) s = .next t ∧
      (x ≠ 15 → (t.getV x).toNat = (s.getV (if s.params.qShiftVxOnly then x else y)).toNat * 2 % 256) ∧
      (t.getV 15).toNat = (s.getV (if s.params.qShiftVxOnly then x else y)).toNat / 128 ∧
      Footprint.Covers { regs := [x, 15] } s t

/-- 42_alu.md section 5: `CXNN` takes one draw, even for `nn = 0`, and keeps the drawn bits that `nn` has. (The draw is the
model's free value, any byte, log 8.) -/
def Obligations.RandomResult : Prop :=
  ∀ (x : Reg) (nn : Byte) (s : State), ∃ t : State, exec (.rnd x nn) s = .next t ∧
    (∀ k < 8, (t.getV x).getLsbD k = ((Config.randByte s.draws).getLsbD k && nn.getLsbD k)) ∧
    t.draws = s.draws + 1 ∧ Footprint.Covers { regs := [x], draws := true } s t

/-! ### Index and memory -/

/-- R200: load index. -/
def Obligations.LoadIndexResult : Prop :=
  ∀ (nnn : Imm12) (s : State), ∃ t : State, exec (.ldIdx nnn) s = .next t ∧
    t.i.toNat = nnn.toNat ∧ Footprint.Covers { i := true } s t

/-- 43_index_memory.md, `FX1E` (that `I` keeps 16 bits is the spec's D9, log 16): the sum modulo 65536, and the flag on the
unreduced sum. -/
def Obligations.AddToIndexResult : Prop :=
  ∀ (x : Reg) (s : State), ∃ t : State, exec (.addIdx x) s = .next t ∧
    t.i.toNat = (s.i.toNat + (s.getV x).toNat) % 65536 ∧
    (t.getV 15).toNat = (if s.i.toNat + (s.getV x).toNat ≥ 4096 then 1 else 0) ∧
    Footprint.Covers { regs := [15], i := true } s t

/-- 43_index_memory.md, `FX29` (a value above 15 is the spec's D10, log 17): the address of a glyph. -/
def Obligations.GlyphAddressResult : Prop :=
  ∀ (x : Reg) (s : State), ∃ t : State, exec (.font x) s = .next t ∧
    t.i.toNat = 0x050 + 5 * (s.getV x).toNat ∧ Footprint.Covers { i := true } s t

/-- 43_index_memory.md, `FX33` (addresses reduce modulo 4096 by the spec's D4, log 11): the three digits at `I`, `I + 1`,
`I + 2`, in a memory in canonical form; no other byte changes. -/
def Obligations.DecimalDigitsResult : Prop :=
  ∀ (x : Reg) (s : State), s.mem.wf = true → ∃ t : State, exec (.bcd x) s = .next t ∧
    (t.mem.read s.i.toNat).toNat = (s.getV x).toNat / 100 ∧
    (t.mem.read (s.i.toNat + 1)).toNat = (s.getV x).toNat / 10 % 10 ∧
    (t.mem.read (s.i.toNat + 2)).toNat = (s.getV x).toNat % 10 ∧
    Footprint.Covers { stored := (List.range 3).map fun k => (s.i.toNat + k) % 4096 } s t

/-- 43_index_memory.md, `FX55` (addresses reduce modulo 4096 by the spec's D4, log 11): registers `V[0]` to `V[x]` at `I`,
`I + 1`, ..., in a memory in canonical form; no other byte changes; `I` advances unless `Q_MEM_KEEP_I`. -/
def Obligations.StoreRegistersResult : Prop :=
  ∀ (x : Reg) (s : State), s.mem.wf = true → ∃ t : State, exec (.stm x) s = .next t ∧
    (∀ j : Reg, j ≤ x → t.mem.read (s.i.toNat + j.val) = s.getV j) ∧
    t.i.toNat = (if s.params.qMemKeepI then s.i.toNat else s.i.toNat + x.val + 1) % 65536 ∧
    Footprint.Covers { i := true, stored := (List.range (x.val + 1)).map fun k => (s.i.toNat + k) % 4096 } s t

/-- 43_index_memory.md, `FX65` (addresses reduce modulo 4096 by the spec's D4, log 11): registers `V[0]` to `V[x]` from `I`,
`I + 1`, ...; the registers above `x` and memory are unchanged; `I` advances unless `Q_MEM_KEEP_I`. -/
def Obligations.LoadRegistersResult : Prop :=
  ∀ (x : Reg) (s : State), ∃ t : State, exec (.ldm x) s = .next t ∧
    (∀ j : Reg, j ≤ x → t.getV j = s.mem.read (s.i.toNat + j.val)) ∧
    t.i.toNat = (if s.params.qMemKeepI then s.i.toNat else s.i.toNat + x.val + 1) % 65536 ∧
    Footprint.Covers { i := true, regs := (List.finRange 16).filter fun j => j ≤ x } s t

/-- 43_index_memory.md, `FX65`: a load after a store with the same `x` and the same `I` restores the registers, whatever
happened to them in between, if the memory stands. -/
def Obligations.LoadRestoresWhatWasStored : Prop :=
  ∀ (x : Reg) (s t u r : State), s.mem.wf = true → exec (.stm x) s = .next t → u.mem = t.mem → u.i = s.i →
    exec (.ldm x) u = .next r → ∀ j : Reg, j ≤ x → r.getV j = s.getV j

/-- 20_memory.md section 6 (addresses reduce modulo 4096 by the spec's D4, log 11): the next fetch at an address `FX55`
has stored to reads the new bytes, so self-modifying code works. -/
def Obligations.StoredBytesAreFetched : Prop :=
  ∀ (x j k : Reg) (s t u : State), s.mem.wf = true → exec (.stm x) s = .next t → k ≤ x → k.val = j.val + 1 →
    u.mem = t.mem → u.pc.toNat % 4096 = (s.i.toNat + j.val) % 4096 → u.fetch = s.getV j ++ s.getV k

/-- 20_memory.md section 4, an inference the spec marks as its own (addresses reduce modulo 4096 by its D4, log 11): a read
gives the last byte written there, writing elsewhere does not matter, and writing a byte twice is writing it once (in a
memory in canonical form). -/
def Obligations.MemoryReadsWhatWasWritten : Prop :=
  ∀ (m : Memory) (a k : Nat) (b : Byte), m.wf = true →
    (m.write a b).read k = (if k % 4096 = a % 4096 then b else m.read k) ∧
    (m.write a b).write a b = m.write a b

/-- The canonical form (the model's own, log 2): two memories in it that read alike at all 4096 addresses are equal. -/
def Obligations.EqualMemoriesAreEqualData : Prop :=
  ∀ m m' : Memory, m.wf = true → m'.wf = true → (∀ a < 4096, m.read a = m'.read a) → m = m'

/-! ### Display -/

/-- R221: every pixel is off, a redraw is reported, and `V[15]` is not written. -/
def Obligations.ClearResult : Prop :=
  ∀ s : State, ∃ t : State, exec .cls s = .next t ∧
    (∀ px py : Nat, t.fb.pixel px py = false) ∧
    (∀ w h : Nat, s.fb.shaped w h = true → t.fb.shaped w h = true) ∧
    t.redraw = true ∧ Footprint.Covers { fb := true, reply := true } s t

/-- 44_display.md section 2 (the sampled `V[15]`, the unbounded coordinates and the reduced addresses are the spec's D8, D23,
D4, log 15, 26, 11): a pixel ends changed exactly when an odd number of the sprite's 1 bits fall on it; a grid of the
display's size stays one; a redraw is reported, for every `n`. -/
def Obligations.DrawChangesThePixels : Prop :=
  ∀ (x y : Reg) (n : Nat) (s : State), ∃ t : State, exec (.drw x y n) s = .next t ∧
    t.redraw = true ∧ Footprint.Covers { regs := [15], fb := true, reply := true } s t ∧
    (s.fb.shaped s.params.displayW s.params.displayH = true →
      t.fb.shaped s.params.displayW s.params.displayH = true ∧
      ∀ px < s.params.displayW, ∀ py < s.params.displayH,
        (t.fb.pixel px py ≠ s.fb.pixel px py ↔ s.spriteBitsOn x y n px py % 2 = 1))

/-- 44_display.md section 2 (as above, D8, D23, D4, log 15, 26, 11): on a grid of the display's size, at least 8 by 15 so
that no pixel is visited twice, `V[15]` ends 1 if a 1 bit of the sprite falls on a pixel that was on, else 0. -/
def Obligations.DrawReportsCollision : Prop :=
  ∀ (x y : Reg) (n : Nat) (s t : State), n < 16 → 8 ≤ s.params.displayW → 15 ≤ s.params.displayH →
    exec (.drw x y n) s = .next t →
    ((t.getV 15).toNat = 1 ∨ (t.getV 15).toNat = 0) ∧
    ((t.getV 15).toNat = 1 ↔ ∃ row < n, ∃ col < 8,
      (s.mem.read (s.i.toNat + row)).getLsbD (7 - col) = true ∧
      s.fb.pixel (((s.getV x).toNat + col) % s.params.displayW)
        (((s.getV y).toNat + row) % s.params.displayH) = true)

/-- 44_display.md section 2 (as above, D8, D23, D4, log 15, 26, 11): on a grid of the display's size, whatever that is,
`V[15]` ends 1 if a 1 bit of the sprite falls on a pixel that was on, or two on one pixel, which the first of them has
then turned on; else 0. -/
def Obligations.DrawReportsCollisionOnAnyDisplay : Prop :=
  ∀ (x y : Reg) (n : Nat) (s : State), 0 < s.params.displayW → 0 < s.params.displayH →
    s.fb.shaped s.params.displayW s.params.displayH = true → ∃ t : State, exec (.drw x y n) s = .next t ∧
    (t.getV 15).toNat = if ∃ px < s.params.displayW, ∃ py < s.params.displayH,
      (s.fb.pixel px py = true ∧ 1 ≤ s.spriteBitsOn x y n px py) ∨ 2 ≤ s.spriteBitsOn x y n px py then 1 else 0

/-- 44_display.md section 2, an inference the spec marks as its own (as above, D8, D23, D4, log 15, 26, 11): drawing the
same sprite twice at the same place restores the grid, and the second draw reports a collision if the first turned a
pixel on. `u` is any state between the two draws with the same grid, place and sprite bytes. -/
def Obligations.DrawingTwiceRestoresTheGrid : Prop :=
  ∀ (x y x' y' : Reg) (n : Nat) (s t u r : State), exec (.drw x y n) s = .next t →
    u.fb = t.fb → u.params = s.params → u.getV x' = s.getV x → u.getV y' = s.getV y →
    (∀ row < n, u.mem.read (u.i.toNat + row) = s.mem.read (s.i.toNat + row)) →
    exec (.drw x' y' n) u = .next r →
    r.fb = s.fb ∧
    (s.fb.shaped s.params.displayW s.params.displayH = true → 0 < s.params.displayW → 0 < s.params.displayH →
      (∃ row < n, ∃ col < 8, (s.mem.read (s.i.toNat + row)).getLsbD (7 - col) = true ∧
        s.fb.pixel (((s.getV x).toNat + col) % s.params.displayW)
          (((s.getV y).toNat + row) % s.params.displayH) = false) →
      (r.getV 15).toNat = 1)

/-! ### Keypad and timers -/

/-- 45_keypad_timers.md section 2 (an id above 15 is not pressed by the spec's D11, log 18): the key skips. -/
def Obligations.KeySkipResults : Prop :=
  ∀ (x : Reg) (s : State),
    (∃ t : State, exec (.skp x) s = .next t ∧
      t.pc.toNat = (if h : (s.getV x).toNat < 16 then
        (if s.keys[(s.getV x).toNat] then s.pc.toNat + 2 else s.pc.toNat) else s.pc.toNat) % 65536 ∧
      Footprint.Covers { pc := true } s t) ∧
    ∃ t : State, exec (.sknp x) s = .next t ∧
      t.pc.toNat = (if h : (s.getV x).toNat < 16 then
        (if s.keys[(s.getV x).toNat] then s.pc.toNat else s.pc.toNat + 2) else s.pc.toNat + 2) % 65536 ∧
      Footprint.Covers { pc := true } s t

/-- 45_keypad_timers.md section 3 (the spec's D13, log 20): `FX0A` enters the key-wait and does nothing else; its cycle
ticks the timers and leaves `PC` past the instruction. -/
def Obligations.WaitForKeyResult : Prop :=
  (∀ (x : Reg) (s : State), ∃ t : State, exec (.waitkey x) s = .next t ∧
    t.mode = .waitingForKey x ∧ Footprint.Covers { mode := true } s t) ∧
  ∀ (x : Reg) (s : State), s.AboutToRun (.waitkey x) → ∃ t : State, step s = .next t ∧
    t.mode = .waitingForKey x ∧ t.pc = s.pc + 2 ∧ t.dt.toNat = s.dt.toNat - 1 ∧ t.st.toNat = s.st.toNat - 1 ∧
    t.redraw = false ∧ Footprint.Covers { mode := true, pc := true, dt := true, st := true, reply := true } s t

/-- R234, R235: `FX07` reads and `FX15` writes the delay timer before the tick of its own cycle. -/
def Obligations.DelayTimerResults : Prop :=
  (∀ (x : Reg) (s : State),
    (∃ t : State, exec (.ldFromDt x) s = .next t ∧ t.getV x = s.dt ∧ Footprint.Covers { regs := [x] } s t) ∧
    ∃ t : State, exec (.ldDt x) s = .next t ∧ t.dt = s.getV x ∧ Footprint.Covers { dt := true } s t) ∧
  (∀ (x : Reg) (s : State), s.AboutToRun (.ldFromDt x) → ∃ t : State, step s = .next t ∧
    t.getV x = s.dt ∧ t.dt.toNat = s.dt.toNat - 1) ∧
  ∀ (x : Reg) (s : State), s.AboutToRun (.ldDt x) → ∃ t : State, step s = .next t ∧
    t.dt.toNat = (s.getV x).toNat - 1

/-- 45_keypad_timers.md section 4 (no output signal is the spec's D22, log 25): `FX18` writes the sound timer before its
own cycle's tick. -/
def Obligations.SoundTimerResult : Prop :=
  (∀ (x : Reg) (s : State), ∃ t : State, exec (.ldSt x) s = .next t ∧
    t.st = s.getV x ∧ Footprint.Covers { st := true } s t) ∧
  ∀ (x : Reg) (s : State), s.AboutToRun (.ldSt x) → ∃ t : State, step s = .next t ∧
    t.st.toNat = (s.getV x).toNat - 1

/-- R28: only `FX15` writes the delay timer, and the tick lowers it by 1 and never below 0; the result of every other
instruction but `FX07` does not depend on it. -/
def Obligations.DelayTimerRule : Prop :=
  (∀ s : State, s.tick.dt.toNat = s.dt.toNat - 1) ∧
  (∀ (i : Instr) (s t : State), exec i s = .next t → (∀ x, i ≠ .ldDt x) → t.dt = s.dt) ∧
  (∀ (x : Reg) (s : State), exec (.ldDt x) s = .next { s with dt := s.getV x }) ∧
  (∀ (x : Reg) (s : State), ∃ t : State, exec (.ldFromDt x) s = .next t ∧ t.getV x = s.dt) ∧
  ∀ (i : Instr) (s t : State) (b : Byte), (∀ x, i ≠ .ldFromDt x) → exec i s = .next t →
    exec i { s with dt := b } = .next { t with dt := match i with | .ldDt x => s.getV x | _ => b }

/-- R29: no instruction reads the sound timer: with another value in it every instruction does the same; only `FX18`
writes it, the tick lowers it by 1 and never below 0, independently of the delay timer, and `dump_state` shows it. -/
def Obligations.SoundTimerIsNeverRead : Prop :=
  (∀ (i : Instr) (s t : State) (b : Byte), exec i s = .next t →
    exec i { s with st := b } = .next { t with st := match i with | .ldSt x => s.getV x | _ => b }) ∧
  (∀ (i : Instr) (s t : State), exec i s = .next t → (∀ x, i ≠ .ldSt x) → t.st = s.st) ∧
  (∀ s : State, s.tick.st.toNat = s.st.toNat - 1 ∧ ∀ b : Byte, { s with dt := b }.tick.st = s.tick.st) ∧
  ∀ s : State, s.snapshot.st = s.st

/-! ### Rules over all instructions -/

/-- R22: the seven flag writers leave 0 or 1 in `V[15]` on every execution (or, for the three arithmetic ones with
`x = 15`, the arithmetic result), and no other instruction writes it unless it is its destination. -/
def Obligations.FlagRegisterRule : Prop :=
  ∀ (i : Instr) (s t : State), exec i s = .next t →
    (i.writesFlag = true →
      (t.getV 15 = 0 ∨ t.getV 15 = 1) ∨
      (∃ y : Reg, i = .addR 15 y ∧ (t.getV 15).toNat = ((s.getV 15).toNat + (s.getV y).toNat) % 256) ∨
      (∃ y : Reg, i = .sub 15 y ∧ (t.getV 15).toNat = (s.getV 15).toNat - (s.getV y).toNat) ∨
      ∃ y : Reg, i = .subn 15 y ∧ (t.getV 15).toNat = (s.getV y).toNat - (s.getV 15).toNat) ∧
    (i.writesFlag = false → 15 ∉ i.dests → t.getV 15 = s.getV 15)

/-- 10_state.md section 2, the register-use table, and 20_memory.md section 1: an instruction changes no general register
but its destinations and, if it is a flag writer, `V[15]`; none but `FX33` and `FX55` changes a byte of memory; none but
`CXNN` draws. -/
def Obligations.InstructionsWriteOnlyWhatTheTableSays : Prop :=
  ∀ (i : Instr) (s t : State), exec i s = .next t →
    (∀ j : Reg, j ∉ i.dests → (i.writesFlag = true → j ≠ 15) → t.getV j = s.getV j) ∧
    ((∀ x, i ≠ .bcd x ∧ i ≠ .stm x) → ∀ a : Nat, t.mem.read a = s.mem.read a) ∧
    ((∀ x nn, i ≠ .rnd x nn) → t.draws = s.draws)

/-- 40_execution_cycle.md section 2, 44_display.md section 1 (that the core only reports is the spec's D24, log 25): a
running step reports a redraw exactly when its instruction is `00E0` or `DXYN`, no other instruction changes a pixel, and
none changes a key. -/
def Obligations.OnlyDisplayInstructionsRedraw : Prop :=
  (∀ (s t : State) (i : Instr), s.AboutToRun i → step s = .next t → t.redraw = i.redraws) ∧
  ∀ (i : Instr) (s t : State), exec i s = .next t → t.keys = s.keys ∧ (i.redraws = false → t.fb = s.fb)

/-- 10_state.md section 6, 00_scope.md section 4: no step changes the quirks, the display's size or the font. -/
def Obligations.ParametersNeverChange : Prop :=
  ∀ s t : State, step s = .next t → t.params = s.params

/-- 70_reset_and_hazards.md section 3: what an instruction does depends on the quirks only for shifts with `x ≠ y`, for
`BNNN` with a top digit other than 0, and in the `I` that `FX55` and `FX65` leave. -/
def Obligations.QuirkDependence : Prop :=
  ∀ (i : Instr) (s t : State) (a b c : Bool), exec i s = .next t →
    (∀ x y, x ≠ y → i ≠ .shr x y ∧ i ≠ .shl x y) → (∀ x nnn, x ≠ 0 → i ≠ .jpOff x nnn) →
    ∃ u : State, exec i { s with params := { s.params with qShiftVxOnly := a, qJumpVx := b, qMemKeepI := c } } = .next u ∧
      u = { t with params := u.params, i := u.i } ∧ ((∀ x, i ≠ .stm x ∧ i ≠ .ldm x) → u.i = t.i)

/-- 10_state.md section 3 (the unenforced parity is the spec's D5, log 12): an even `PC` stays even over every running
step but that of `1NNN`, `2NNN`, `BNNN` or `00EE`, whose targets are not checked. -/
def Obligations.EvenProgramCounterIsKept : Prop :=
  ∀ (s t : State), s.host = [] → step s = .next t → s.pc.toNat % 2 = 0 →
    (∀ nnn, decode s.fetch ≠ .ok (.jp nnn)) → (∀ nnn, decode s.fetch ≠ .ok (.call nnn)) →
    (∀ x nnn, decode s.fetch ≠ .ok (.jpOff x nnn)) → decode s.fetch ≠ .ok .ret → t.pc.toNat % 2 = 0

/-! ### Reset and the invariant -/

/-- 10_state.md section 7 (the zeros are the spec's D3, log 4; the size and the font PRESUMED, log 1, 2; reset as a `load`
of the empty image is log 28): the machine after reset; its first step, a `step` transaction because none is pending
(log 9), meets 0x0000 at 0x200, which is no instruction (70_reset_and_hazards.md section 1, the empty image), and takes the
fatal error of 60_exceptions.md section 2 (the restored `PC` and the mode `Faulted` are the spec's D6, D7, log 13, 14). -/
def Obligations.ResetState : Prop :=
  State.reset.pc = 0x200 ∧ State.reset.mode = .running ∧ State.reset.err = none ∧ State.reset.redraw = false ∧
  (∀ j : Reg, State.reset.getV j = 0) ∧ State.reset.i = 0 ∧ State.reset.dt = 0 ∧ State.reset.st = 0 ∧
  State.reset.sp = 0 ∧
  (∀ j : Nat, (h : j < 80) → State.reset.mem.read (0x050 + j) = State.reset.params.font[j]) ∧
  (∀ a : Nat, a < 4096 → ¬(0x050 ≤ a ∧ a < 0x0A0) → State.reset.mem.read a = 0) ∧
  ∃ t : State, step State.reset = .next t ∧ t.mode = .faulted ∧ t.pc = 0x200 ∧
    t.err = some ⟨.unrecognizedOpcode, 0x0000, 0x200⟩

/-- The invariant (`Inv`) holds at reset. (The canonical form of memory is the model's own, log 2; the display's size at
reset is PRESUMED, log 1; reset as a `load` of the empty image is log 28.) -/
def Obligations.ResetMeetsTheInvariant : Prop := Inv State.reset

/-- Every step keeps the invariant: memory stays canonical, the grid stays the display's size, and there is an error record
exactly in `Faulted`, which is that of the instruction at `PC` and whose cause still stands (60_exceptions.md sections 1
and 2; the spec's D6, D7, log 13, 14). The canonical form of memory is the model's own (log 2). -/
def Obligations.EveryStepKeepsTheInvariant : Prop :=
  ∀ s t : State, Inv s → step s = .next t → Inv t
end

