-- ==== Sys2Proof/Laws/Decode.lean ====
section
/-! SUPPORT. The arithmetic of the encoding: an opcode's fields as quotients and remainders, and the number each format of
30_encoding.md R92 builds from its fields. -/

namespace Sys2Proof

/-! ### Fields of an opcode (R91) -/

theorem extract_top (op : Word) : (extract op).top.toNat = op.toNat / 4096 := by
  have := op.isLt
  simp only [extract, BitVec.extractLsb'_toNat, Nat.shiftRight_eq_div_pow]
  omega

theorem extract_x (op : Word) : (extract op).x.val = op.toNat / 256 % 16 := by
  change (op.extractLsb' 8 4).toNat = _
  simp only [BitVec.extractLsb'_toNat, Nat.shiftRight_eq_div_pow]

theorem extract_y (op : Word) : (extract op).y.val = op.toNat / 16 % 16 := by
  change (op.extractLsb' 4 4).toNat = _
  simp only [BitVec.extractLsb'_toNat, Nat.shiftRight_eq_div_pow]

theorem extract_n (op : Word) : (extract op).n.toNat = op.toNat % 16 := by
  simp only [extract, BitVec.extractLsb'_toNat, Nat.shiftRight_zero]

theorem extract_nn (op : Word) : (extract op).nn.toNat = op.toNat % 256 := by
  simp only [extract, BitVec.extractLsb'_toNat, Nat.shiftRight_zero]

theorem extract_nnn (op : Word) : (extract op).nnn.toNat = op.toNat % 4096 := by
  simp only [extract, BitVec.extractLsb'_toNat, Nat.shiftRight_zero]

theorem topDigit_val (nnn : Imm12) : (topDigit nnn).val = nnn.toNat / 256 := by
  have := nnn.isLt
  change (nnn.extractLsb' 8 4).toNat = _
  simp only [BitVec.extractLsb'_toNat, Nat.shiftRight_eq_div_pow]
  omega

/-! ### The number a format builds (R92) -/

theorem toNat_append_eq {v w : Nat} (a : BitVec v) (b : BitVec w) :
    (a ++ b).toNat = a.toNat * 2 ^ w + b.toNat := by
  rw [BitVec.toNat_append, ← Nat.shiftLeft_add_eq_or_of_lt b.isLt, Nat.shiftLeft_eq]

@[simp] theorem regBits_toNat (x : Reg) : (regBits x).toNat = x.val := rfl

theorem fmtNNN_toNat (t : BitVec 4) (nnn : Imm12) : (fmtNNN t nnn).toNat = t.toNat * 4096 + nnn.toNat :=
  toNat_append_eq t nnn

theorem fmtXNN_toNat (t : BitVec 4) (x : Reg) (nn : Byte) :
    (fmtXNN t x nn).toNat = t.toNat * 4096 + x.val * 256 + nn.toNat := by
  have h : (fmtXNN t x nn).toNat = (t ++ regBits x).toNat * 2 ^ 8 + nn.toNat := toNat_append_eq (t ++ regBits x) nn
  rw [h, toNat_append_eq, regBits_toNat]
  omega

theorem fmtXYN_toNat (t : BitVec 4) (x y : Reg) (s : BitVec 4) :
    (fmtXYN t x y s).toNat = t.toNat * 4096 + x.val * 256 + y.val * 16 + s.toNat := by
  have h : (fmtXYN t x y s).toNat = (t ++ regBits x ++ regBits y).toNat * 2 ^ 4 + s.toNat :=
    toNat_append_eq (t ++ regBits x ++ regBits y) s
  rw [h, toNat_append_eq, toNat_append_eq, regBits_toNat, regBits_toNat]
  omega

/-! ### The fields of what a format builds -/

section fields

variable (t : BitVec 4) (x y : Reg) (n : BitVec 4) (nn : Byte) (nnn : Imm12)

@[simp] theorem extract_fmtNNN_top : (extract (fmtNNN t nnn)).top = t := by
  have := t.isLt
  have := nnn.isLt
  apply BitVec.eq_of_toNat_eq
  rw [extract_top, fmtNNN_toNat]
  omega

@[simp] theorem extract_fmtNNN_x : (extract (fmtNNN t nnn)).x = topDigit nnn := by
  have := t.isLt
  have := nnn.isLt
  apply Fin.ext
  rw [extract_x, fmtNNN_toNat, topDigit_val]
  omega

@[simp] theorem extract_fmtNNN_nnn : (extract (fmtNNN t nnn)).nnn = nnn := by
  have := t.isLt
  have := nnn.isLt
  apply BitVec.eq_of_toNat_eq
  rw [extract_nnn, fmtNNN_toNat]
  omega

@[simp] theorem extract_fmtXNN_top : (extract (fmtXNN t x nn)).top = t := by
  have := t.isLt
  have := x.isLt
  have := nn.isLt
  apply BitVec.eq_of_toNat_eq
  rw [extract_top, fmtXNN_toNat]
  omega

@[simp] theorem extract_fmtXNN_x : (extract (fmtXNN t x nn)).x = x := by
  have := t.isLt
  have := x.isLt
  have := nn.isLt
  apply Fin.ext
  rw [extract_x, fmtXNN_toNat]
  omega

@[simp] theorem extract_fmtXNN_nn : (extract (fmtXNN t x nn)).nn = nn := by
  have := t.isLt
  have := x.isLt
  have := nn.isLt
  apply BitVec.eq_of_toNat_eq
  rw [extract_nn, fmtXNN_toNat]
  omega

@[simp] theorem extract_fmtXYN_top : (extract (fmtXYN t x y n)).top = t := by
  have := t.isLt
  have := x.isLt
  have := y.isLt
  have := n.isLt
  apply BitVec.eq_of_toNat_eq
  rw [extract_top, fmtXYN_toNat]
  omega

@[simp] theorem extract_fmtXYN_x : (extract (fmtXYN t x y n)).x = x := by
  have := t.isLt
  have := x.isLt
  have := y.isLt
  have := n.isLt
  apply Fin.ext
  rw [extract_x, fmtXYN_toNat]
  omega

@[simp] theorem extract_fmtXYN_y : (extract (fmtXYN t x y n)).y = y := by
  have := t.isLt
  have := x.isLt
  have := y.isLt
  have := n.isLt
  apply Fin.ext
  rw [extract_y, fmtXYN_toNat]
  omega

@[simp] theorem extract_fmtXYN_n : (extract (fmtXYN t x y n)).n = n := by
  have := t.isLt
  have := x.isLt
  have := y.isLt
  have := n.isLt
  apply BitVec.eq_of_toNat_eq
  rw [extract_n, fmtXYN_toNat]
  omega

end fields

/-! ### An opcode is what its fields build (R91, R92) -/

theorem fmtNNN_extract (op : Word) : fmtNNN (extract op).top (extract op).nnn = op := by
  have := op.isLt
  apply BitVec.eq_of_toNat_eq
  rw [fmtNNN_toNat, extract_top, extract_nnn]
  omega

theorem fmtXNN_extract (op : Word) : fmtXNN (extract op).top (extract op).x (extract op).nn = op := by
  have := op.isLt
  apply BitVec.eq_of_toNat_eq
  rw [fmtXNN_toNat, extract_top, extract_x, extract_nn]
  omega

theorem fmtXYN_extract (op : Word) :
    fmtXYN (extract op).top (extract op).x (extract op).y (extract op).n = op := by
  have := op.isLt
  apply BitVec.eq_of_toNat_eq
  rw [fmtXYN_toNat, extract_top, extract_x, extract_y, extract_n]
  omega

/-- The register `BNNN` keeps is the top digit of its address (R99). -/
theorem extract_x_eq_topDigit (op : Word) : (extract op).x = topDigit (extract op).nnn := by
  apply Fin.ext
  rw [topDigit_val, extract_x, extract_nnn]
  omega

/-! ### Bytes -/

/-- The two bytes of an encoded instruction, joined, are its opcode. -/
theorem encodeBytes_join (op : Word) : op.extractLsb' 8 8 ++ op.extractLsb' 0 8 = op := by
  have := op.isLt
  apply BitVec.eq_of_toNat_eq
  rw [toNat_append_eq, BitVec.extractLsb'_toNat, BitVec.extractLsb'_toNat, Nat.shiftRight_eq_div_pow,
    Nat.shiftRight_zero]
  omega

/-- A rejected opcode is rejected by name (R98). -/
theorem decode_error {op : Word} {e : DecodeError} (h : decode op = .error e) : e = .illegal op := by
  simp only [decode] at h
  split at h <;> cases h
  rfl

end Sys2Proof
end

