-- ==== Sys2Proof/Laws/Display.lean ====
section
/-! SUPPORT. The laws of the pixel grid: what a toggle and a clear do to each pixel, and what visiting a list of pixels
leaves. -/

namespace Sys2Proof.Machine

namespace Grid

/-- A coordinate that names a pixel of the grid. -/
def inside (g : Grid) (px py : Nat) : Bool := decide (px < (g[py]?.getD []).length)

theorem inside_of_shaped {w h : Nat} {g : Grid} (hg : g.shaped w h = true) {px py : Nat} (hx : px < w) (hy : py < h) :
    g.inside px py = true := by
  simp only [shaped, Bool.and_eq_true, beq_iff_eq, List.all_eq_true] at hg
  obtain ⟨hl, hr⟩ := hg
  have hpy : py < g.length := by omega
  simp only [inside, decide_eq_true_eq, List.getElem?_eq_getElem hpy, Option.getD_some]
  rw [hr _ (List.getElem_mem hpy)]
  exact hx

/-- A toggle changes its own pixel, if there is one there, and no other (R220). -/
theorem pixel_toggle (g : Grid) (px py qx qy : Nat) :
    (g.toggle px py).pixel qx qy = ((g.pixel qx qy) ^^ (decide (qx = px) && decide (qy = py) && g.inside qx qy)) := by
  simp only [toggle, pixel, inside, List.getElem?_modify]
  by_cases hy : py = qy
  · subst hy
    cases hrow : g[py]? with
    | none => simp
    | some row =>
      simp only [Option.getD_some, ↓reduceIte]
      by_cases hx : px = qx
      · subst hx
        by_cases hlt : px < row.length
        · simp [hlt]
        · simp [hlt]
      · simp [hx, Ne.symm hx]
  · simp [hy, Ne.symm hy]

@[simp] theorem inside_toggle (g : Grid) (px py qx qy : Nat) : (g.toggle px py).inside qx qy = g.inside qx qy := by
  simp only [toggle, inside, List.getElem?_modify]
  by_cases hy : py = qy
  · subst hy; cases g[py]? <;> simp
  · simp [hy]

theorem toggle_shaped {w h : Nat} {g : Grid} (hg : g.shaped w h = true) (px py : Nat) :
    (g.toggle px py).shaped w h = true := by
  simp only [shaped, Bool.and_eq_true, beq_iff_eq, List.all_eq_true] at hg ⊢
  refine ⟨by simpa [toggle] using hg.1, fun row hrow => ?_⟩
  obtain ⟨k, hk, rfl⟩ := List.getElem_of_mem hrow
  have hk' : k < g.length := by simpa [toggle] using hk
  have := hg.2 _ (List.getElem_mem hk')
  simp only [toggle, List.getElem_modify]
  split <;> simpa using this

theorem clear_shaped {w h : Nat} {g : Grid} (hg : g.shaped w h = true) : g.clear.shaped w h = true := by
  simp only [shaped, Bool.and_eq_true, beq_iff_eq, List.all_eq_true] at hg ⊢
  refine ⟨by simpa [clear] using hg.1, fun row hrow => ?_⟩
  obtain ⟨r, hr, rfl⟩ := List.mem_map.mp hrow
  simpa using hg.2 r hr

/-- After a clear every pixel is off (R220). -/
@[simp] theorem pixel_clear (g : Grid) (px py : Nat) : g.clear.pixel px py = false := by
  simp only [clear, pixel, List.getElem?_map]
  cases g[py]? with
  | none => rfl
  | some row => cases row[px]? <;> simp

/-- Two changes of a list commute when the functions do. -/
theorem modify_comm {α : Type} (l : List α) (i j : Nat) {f f' : α → α} (h : ∀ x, f (f' x) = f' (f x)) :
    (l.modify i f).modify j f' = (l.modify j f').modify i f := by
  apply List.ext_getElem?
  intro k
  simp only [List.getElem?_modify, Option.map_eq_map, Option.map_map]
  congr 1
  funext x
  by_cases h1 : i = k <;> by_cases h2 : j = k <;> simp [h1, h2, h]

/-- A change that undoes itself, made twice, leaves the list as it was. -/
theorem modify_modify_self {α : Type} (l : List α) (i : Nat) {f : α → α} (h : ∀ x, f (f x) = x) :
    (l.modify i f).modify i f = l := by
  apply List.ext_getElem?
  intro k
  simp only [List.getElem?_modify, Option.map_eq_map, Option.map_map]
  by_cases h1 : i = k
  · cases l[k]? <;> simp [h1, h]
  · cases l[k]? <;> simp [h1]

/-- Two toggles commute. -/
theorem toggle_comm (g : Grid) (px py qx qy : Nat) :
    (g.toggle px py).toggle qx qy = (g.toggle qx qy).toggle px py :=
  modify_comm _ _ _ fun row => modify_comm row _ _ fun _ => rfl

/-- A toggle undoes itself. -/
@[simp] theorem toggle_toggle (g : Grid) (px py : Nat) : (g.toggle px py).toggle px py = g :=
  modify_modify_self _ _ fun row => modify_modify_self row _ Bool.not_not

/-- Two grids of one shape with the same pixels are equal. -/
theorem shaped_ext {w h : Nat} {g g' : Grid} (hg : g.shaped w h = true) (hg' : g'.shaped w h = true)
    (hp : ∀ px < w, ∀ py < h, g.pixel px py = g'.pixel px py) : g = g' := by
  simp only [shaped, Bool.and_eq_true, beq_iff_eq, List.all_eq_true] at hg hg'
  refine List.ext_getElem (hg.1.trans hg'.1.symm) fun py h1 h2 => ?_
  have r1 := hg.2 _ (List.getElem_mem h1)
  have r2 := hg'.2 _ (List.getElem_mem h2)
  refine List.ext_getElem (r1.trans r2.symm) fun px h3 h4 => ?_
  have := hp px (by omega) py (by omega)
  simpa [pixel, h1, h2, h3, h4] using this

end Grid

/-! ### Visiting a list of pixels -/

theorem xorPixels_shaped {w h : Nat} :
    ∀ (ps : List (Nat × Nat)) {g : Grid} (hit : Bool), g.shaped w h = true → (xorPixels ps g hit).1.shaped w h = true
  | [], _, _, hg => hg
  | (px, py) :: ps, _, _, hg => xorPixels_shaped ps _ (Grid.toggle_shaped hg px py)

/-- The grid left does not depend on the flag carried along. -/
theorem xorPixels_grid : ∀ (ps : List (Nat × Nat)) (g : Grid) (hit hit' : Bool),
    (xorPixels ps g hit).1 = (xorPixels ps g hit').1
  | [], _, _, _ => rfl
  | _ :: ps, _, _, _ => xorPixels_grid ps _ _ _

theorem xorPixels_toggle : ∀ (ps : List (Nat × Nat)) (g : Grid) (hit : Bool) (px py : Nat),
    (xorPixels ps (g.toggle px py) hit).1 = (xorPixels ps g hit).1.toggle px py
  | [], _, _, _, _ => rfl
  | (qx, qy) :: ps, g, hit, px, py => by
    simp only [xorPixels]
    rw [Grid.toggle_comm, xorPixels_grid ps _ _ (hit || g.pixel qx qy)]
    exact xorPixels_toggle ps _ _ px py

/-- Visiting the same pixels twice leaves the grid as it was (R224). -/
theorem xorPixels_twice : ∀ (ps : List (Nat × Nat)) (g : Grid) (hit hit' : Bool),
    (xorPixels ps (xorPixels ps g hit).1 hit').1 = g
  | [], _, _, _ => rfl
  | (px, py) :: ps, g, hit, hit' => by
    simp only [xorPixels]
    rw [xorPixels_toggle ps g _ px py, Grid.toggle_toggle,
      xorPixels_grid ps g (hit || g.pixel px py) hit]
    exact xorPixels_twice ps g hit _

/-- Each pixel ends changed exactly when it was visited an odd number of times. -/
theorem xorPixels_pixel : ∀ (ps : List (Nat × Nat)) (g : Grid) (hit : Bool) (qx qy : Nat),
    (xorPixels ps g hit).1.pixel qx qy =
      (g.pixel qx qy ^^ (g.inside qx qy && decide (ps.count (qx, qy) % 2 = 1)))
  | [], _, _, _, _ => by simp [xorPixels]
  | (px, py) :: ps, g, hit, qx, qy => by
    simp only [xorPixels]
    rw [xorPixels_pixel ps _ _ qx qy, Grid.pixel_toggle, Grid.inside_toggle, List.count_cons]
    by_cases h : (px, py) = (qx, qy)
    · cases h
      cases g.inside px py <;> cases g.pixel px py <;>
        simp only [decide_true, Bool.and_self, Bool.true_and, Bool.and_false, Bool.false_and, BEq.rfl, if_true] <;>
        by_cases hc : ps.count (px, py) % 2 = 1 <;> simp [hc] <;> omega
    · have hne : ¬(qx = px ∧ qy = py) := fun ⟨h1, h2⟩ => h (by rw [h1, h2])
      have hb : ((px, py) == (qx, qy)) = false := by simpa using h
      have hd : (decide (qx = px) && decide (qy = py)) = false := by
        simpa [Bool.and_eq_false_iff] using hne
      simp only [hb, hd, Bool.false_and, Bool.xor_false, Bool.false_eq_true, if_false, Nat.add_zero]

/-- The flag is the one carried along, or that of a visit from here on. -/
theorem xorPixels_flag : ∀ (ps : List (Nat × Nat)) (g : Grid) (hit : Bool),
    (xorPixels ps g hit).2 = (hit || (xorPixels ps g false).2)
  | [], _, hit => by simp [xorPixels]
  | (px, py) :: ps, g, hit => by
    simp only [xorPixels]
    rw [xorPixels_flag ps _ (hit || _), xorPixels_flag ps _ (false || _)]
    simp [Bool.or_assoc]

/-! ### The pixels a sprite names -/

/-- How often one sprite row names a pixel. -/
theorem count_rowPixels (p : Params) (vx vy : Byte) (row : Nat) (b : Byte) (px py : Nat) :
    (rowPixels p vx vy row b).count (px, py) = (List.range 8).countP fun col =>
      b.getLsbD (7 - col) && decide ((vx.toNat + col) % p.displayW = px) &&
      decide ((vy.toNat + row) % p.displayH = py) := by
  rw [rowPixels, List.count, List.countP_map, List.countP_filter]
  congr 1
  funext col
  rw [Bool.eq_iff_iff]
  simp [Function.comp]
  tauto

/-- How often a sprite names a pixel. -/
theorem count_spritePixels (p : Params) (vx vy : Byte) (px py : Nat) (f : Nat → Byte) : ∀ n row : Nat,
    (spritePixels p vx vy row ((List.range' row n).map f)).count (px, py) =
      (List.range' row n ×ˢ List.range 8).countP fun (row, col) =>
        (f row).getLsbD (7 - col) && decide ((vx.toNat + col) % p.displayW = px) &&
        decide ((vy.toNat + row) % p.displayH = py)
  | 0, row => by simp [spritePixels]
  | n + 1, row => by
    simp only [List.range'_succ, List.map_cons, spritePixels, List.count_append, count_rowPixels,
      count_spritePixels p vx vy px py f n (row + 1)]
    rw [List.product_cons, List.countP_append, List.countP_map]
    rfl

/-- On a display with a pixel, every pixel a sprite names is inside it. -/
theorem mem_spritePixels {p : Params} (hw : 0 < p.displayW) (hh : 0 < p.displayH) {vx vy : Byte} :
    ∀ {bs : List Byte} {row : Nat} {q : Nat × Nat}, q ∈ spritePixels p vx vy row bs →
      q.1 < p.displayW ∧ q.2 < p.displayH
  | [], _, _, h => by simp [spritePixels] at h
  | b :: bs, row, q, h => by
    simp only [spritePixels, List.mem_append] at h
    rcases h with h | h
    · simp only [rowPixels, List.mem_map] at h
      obtain ⟨c, _, rfl⟩ := h
      exact ⟨Nat.mod_lt _ hw, Nat.mod_lt _ hh⟩
    · exact mem_spritePixels hw hh h

end Sys2Proof.Machine
end

