-- ==== Sys2Proof/Laws/Memory.lean ====
section
/-! SUPPORT. The laws of memory: every operation keeps the canonical form, a read gives the last byte written, a write
leaves every other address alone, and two canonical memories that read alike are equal. -/

namespace Sys2Proof.Machine.Memory

/-! ### The canonical form -/

theorem wfFrom_mono {lo lo' : Nat} (h : lo' ≤ lo) : ∀ {m : Memory}, wfFrom lo m = true → wfFrom lo' m = true
  | [], _ => rfl
  | (c, d) :: rest, hm => by
    simp only [wfFrom, Bool.and_eq_true, decide_eq_true_eq] at hm ⊢
    exact ⟨⟨⟨by omega, hm.1.1.2⟩, hm.1.2⟩, hm.2⟩

theorem wfFrom_cons {lo c : Nat} {d : Byte} {rest : Memory} :
    wfFrom lo ((c, d) :: rest) = true ↔
      lo ≤ c ∧ c < 4096 ∧ d ≠ background c ∧ wfFrom (c + 1) rest = true := by
  simp only [wfFrom, Bool.and_eq_true, decide_eq_true_eq, and_assoc]

/-- An address below every listed one is not listed. -/
theorem lookup_below {e lo : Nat} (he : e < lo) : ∀ {m : Memory}, wfFrom lo m = true → lookup e m = none
  | [], _ => rfl
  | (c, d) :: rest, hm => by
    obtain ⟨h1, _, _, h4⟩ := wfFrom_cons.mp hm
    rw [lookup, if_neg (by omega)]
    exact lookup_below (by omega) h4

theorem insertCell_wfFrom {e : Nat} {b : Byte} (he : e < 4096) (hb : b ≠ background e) :
    ∀ {lo : Nat} {m : Memory}, lo ≤ e → wfFrom lo m = true → wfFrom lo (insertCell e b m) = true
  | lo, [], hlo, _ => wfFrom_cons.mpr ⟨hlo, he, hb, rfl⟩
  | lo, (c, d) :: rest, hlo, hm => by
    obtain ⟨h1, h2, h3, h4⟩ := wfFrom_cons.mp hm
    rw [insertCell]
    split
    · exact wfFrom_cons.mpr ⟨hlo, he, hb, wfFrom_cons.mpr ⟨by omega, h2, h3, h4⟩⟩
    · split
      · next _ h => subst h; exact wfFrom_cons.mpr ⟨hlo, he, hb, h4⟩
      · exact wfFrom_cons.mpr ⟨h1, h2, h3, insertCell_wfFrom he hb (by omega) h4⟩

theorem eraseCell_wfFrom {e : Nat} :
    ∀ {lo : Nat} {m : Memory}, wfFrom lo m = true → wfFrom lo (eraseCell e m) = true
  | _, [], _ => rfl
  | lo, (c, d) :: rest, hm => by
    obtain ⟨h1, h2, h3, h4⟩ := wfFrom_cons.mp hm
    rw [eraseCell]
    split
    · exact wfFrom_mono (by omega) h4
    · exact wfFrom_cons.mpr ⟨h1, h2, h3, eraseCell_wfFrom h4⟩

/-- A write keeps the canonical form. -/
theorem write_wf {m : Memory} (h : m.wf = true) (a : Nat) (b : Byte) : (m.write a b).wf = true := by
  rw [write]
  split
  · exact eraseCell_wfFrom h
  · next hb => exact insertCell_wfFrom (Nat.mod_lt _ (by decide)) hb (Nat.zero_le _) h

/-- Writing several bytes keeps the canonical form. -/
theorem writeList_wf : ∀ (bs : List Byte) {m : Memory} (a : Nat), m.wf = true → (m.writeList a bs).wf = true
  | [], _, _, h => h
  | b :: bs, _, a, h => writeList_wf bs (a + 1) (write_wf h a b)

@[simp] theorem empty_wf : wf [] = true := rfl

/-! ### Reading after writing -/

theorem lookup_insertCell (e : Nat) (b : Byte) (k : Nat) :
    ∀ m : Memory, lookup k (insertCell e b m) = if k = e then some b else lookup k m
  | [] => rfl
  | (c, d) :: rest => by
    rw [insertCell]
    split
    · rw [lookup]
    · split
      · next _ h => subst h; simp only [lookup]; split <;> rfl
      · next h1 h2 =>
        rw [lookup, lookup, lookup_insertCell e b k rest]
        by_cases hk : k = c
        · rw [if_pos hk, if_pos hk, if_neg (by omega)]
        · rw [if_neg hk, if_neg hk]

theorem lookup_eraseCell_ne {e k : Nat} (h : k ≠ e) :
    ∀ m : Memory, lookup k (eraseCell e m) = lookup k m
  | [] => rfl
  | (c, d) :: rest => by
    rw [eraseCell]
    split
    · next hc => subst hc; rw [lookup, if_neg h]
    · rw [lookup, lookup, lookup_eraseCell_ne h rest]

theorem lookup_eraseCell_same {e : Nat} :
    ∀ {lo : Nat} {m : Memory}, wfFrom lo m = true → lookup e (eraseCell e m) = none
  | _, [], _ => rfl
  | _, (c, d) :: rest, hm => by
    obtain ⟨_, _, _, h4⟩ := wfFrom_cons.mp hm
    rw [eraseCell]
    split
    · next h => subst h; exact lookup_below (by omega) h4
    · next h => rw [lookup, if_neg h]; exact lookup_eraseCell_same h4

/-- Only the low 12 bits of an address reach memory. -/
theorem read_mod (m : Memory) (a : Nat) : m.read (a % 4096) = m.read a := by
  simp only [read, Nat.mod_mod]

theorem read_congr (m : Memory) {a b : Nat} (h : a % 4096 = b % 4096) : m.read a = m.read b := by
  simp only [read, h]

@[simp] theorem read_empty (a : Nat) : read [] a = background (a % 4096) := rfl

/-- A read of the address last written gives the byte written. -/
theorem read_write_same {m : Memory} (h : m.wf = true) {a k : Nat} (hk : k % 4096 = a % 4096) (b : Byte) :
    (m.write a b).read k = b := by
  rw [write, read, hk]
  split
  · next hb => rw [lookup_eraseCell_same h, hb]; rfl
  · rw [lookup_insertCell, if_pos rfl]; rfl

/-- A write leaves every other address alone, in any memory. -/
theorem read_write_ne (m : Memory) {a k : Nat} (hk : k % 4096 ≠ a % 4096) (b : Byte) :
    (m.write a b).read k = m.read k := by
  rw [write, read, read]
  split
  · rw [lookup_eraseCell_ne hk]
  · rw [lookup_insertCell, if_neg hk]

/-- Bytes written elsewhere do not change what an address reads as. -/
theorem read_writeList_outside :
    ∀ (bs : List Byte) (m : Memory) (a k : Nat), (∀ j < bs.length, k % 4096 ≠ (a + j) % 4096) →
      (m.writeList a bs).read k = m.read k
  | [], _, _, _, _ => rfl
  | b :: bs, m, a, k, h => by
    rw [writeList, read_writeList_outside bs _ _ _ fun j hj => by
      have := h (j + 1) (by simp; omega)
      rwa [Nat.add_assoc, Nat.add_comm 1 j]]
    exact read_write_ne m (h 0 (by simp)) b

/-- Each byte written reads back, as long as no two of them share an address. -/
theorem read_writeList_inside :
    ∀ (bs : List Byte) {m : Memory} (a j : Nat) (hj : j < bs.length), m.wf = true → bs.length ≤ 4096 →
      (m.writeList a bs).read (a + j) = bs[j]
  | b :: bs, m, a, 0, _, hm, hlen => by
    rw [writeList, read_writeList_outside]
    · exact read_write_same hm rfl b
    · intro j hj
      simp only [List.length_cons] at hlen
      omega
  | b :: bs, m, a, j + 1, hj, hm, hlen => by
    have ih := read_writeList_inside bs (a + 1) j (by simpa using hj) (write_wf hm a b) (by simp at hlen; omega)
    rw [writeList, show a + (j + 1) = a + 1 + j by omega, ih]
    rfl

@[simp] theorem readList_length (m : Memory) (a n : Nat) : (m.readList a n).length = n := by
  simp [readList]

/-! ### Equal memories are equal data -/

theorem lookup_ne_background {e : Nat} {d : Byte} :
    ∀ {lo : Nat} {m : Memory}, wfFrom lo m = true → lookup e m = some d → e < 4096 ∧ lo ≤ e ∧ d ≠ background e
  | _, [], _, h => by simp [lookup] at h
  | lo, (c, d') :: rest, hm, h => by
    obtain ⟨h1, h2, h3, h4⟩ := wfFrom_cons.mp hm
    rw [lookup] at h
    split at h
    · next hc => subst hc; cases h; exact ⟨h2, h1, h3⟩
    · obtain ⟨a1, a2, a3⟩ := lookup_ne_background h4 h
      exact ⟨a1, by omega, a3⟩

theorem wfFrom_ext :
    ∀ {lo : Nat} {m m' : Memory}, wfFrom lo m = true → wfFrom lo m' = true →
      (∀ e, lookup e m = lookup e m') → m = m'
  | _, [], [], _, _, _ => rfl
  | _, [], (c, d) :: rest, _, _, h => by simpa [lookup] using h c
  | _, (c, d) :: rest, [], _, _, h => by simpa [lookup] using h c
  | _, (c, d) :: rest, (c', d') :: rest', hm, hm', h => by
    obtain ⟨h1, h2, h3, h4⟩ := wfFrom_cons.mp hm
    obtain ⟨h1', h2', h3', h4'⟩ := wfFrom_cons.mp hm'
    have hc : c = c' := by
      rcases Nat.lt_trichotomy c c' with hlt | heq | hgt
      · have := h c
        rw [lookup, if_pos rfl, lookup, if_neg (by omega), lookup_below (by omega) h4'] at this
        cases this
      · exact heq
      · have := h c'
        rw [lookup, if_neg (by omega), lookup_below (by omega) h4, lookup, if_pos rfl] at this
        cases this
    subst hc
    have hd : d = d' := by simpa [lookup] using h c
    subst hd
    congr 1
    refine wfFrom_ext h4 h4' fun e => ?_
    by_cases he : e = c
    · rw [lookup_below (by omega) h4, lookup_below (by omega) h4']
    · simpa [lookup, he] using h e

/-! ### `FX65`'s loop -/

/-- Register `j` after the first `n` bytes were loaded. -/
theorem loadRegs_get (m : Memory) (a : Nat) (v : Vector Byte 16) (j : Nat) (hj : j < 16) :
    ∀ n : Nat, (m.loadRegs a n v)[j] = if j < n then m.read (a + j) else v[j]
  | 0 => by simp [loadRegs]
  | n + 1 => by
    rw [loadRegs, Vector.getElem_setIfInBounds, loadRegs_get m a v j hj n]
    by_cases h : n = j
    · subst h; simp
    · rw [if_neg h]
      split <;> split <;> first | rfl | omega

end Sys2Proof.Machine.Memory
end

