-- ==== Sys2Proof/Laws/State.lean ====
section
/-! SUPPORT. One lemma per field per update of the state, true by `rfl`, so that no proof unfolds a record update; and the
laws of reading a register after an update. -/

namespace Sys2Proof.Machine
namespace State

variable (s : State)

/-! `setV` -/

@[simp] theorem setV_v (x : Reg) (b : Byte) : (s.setV x b).v = s.v.set x.val b := rfl
@[simp] theorem setV_i (x : Reg) (b : Byte) : (s.setV x b).i = s.i := rfl
@[simp] theorem setV_pc (x : Reg) (b : Byte) : (s.setV x b).pc = s.pc := rfl
@[simp] theorem setV_dt (x : Reg) (b : Byte) : (s.setV x b).dt = s.dt := rfl
@[simp] theorem setV_st (x : Reg) (b : Byte) : (s.setV x b).st = s.st := rfl
@[simp] theorem setV_stack (x : Reg) (b : Byte) : (s.setV x b).stack = s.stack := rfl
@[simp] theorem setV_sp (x : Reg) (b : Byte) : (s.setV x b).sp = s.sp := rfl
@[simp] theorem setV_mem (x : Reg) (b : Byte) : (s.setV x b).mem = s.mem := rfl
@[simp] theorem setV_mode (x : Reg) (b : Byte) : (s.setV x b).mode = s.mode := rfl
@[simp] theorem setV_err (x : Reg) (b : Byte) : (s.setV x b).err = s.err := rfl
@[simp] theorem setV_params (x : Reg) (b : Byte) : (s.setV x b).params = s.params := rfl
@[simp] theorem setV_fb (x : Reg) (b : Byte) : (s.setV x b).fb = s.fb := rfl
@[simp] theorem setV_keys (x : Reg) (b : Byte) : (s.setV x b).keys = s.keys := rfl
@[simp] theorem setV_draws (x : Reg) (b : Byte) : (s.setV x b).draws = s.draws := rfl
@[simp] theorem setV_host (x : Reg) (b : Byte) : (s.setV x b).host = s.host := rfl
@[simp] theorem setV_reply (x : Reg) (b : Byte) : (s.setV x b).reply = s.reply := rfl

/-! `setI` -/

@[simp] theorem setI_v (w : Word) : (s.setI w).v = s.v := rfl
@[simp] theorem setI_i (w : Word) : (s.setI w).i = w := rfl
@[simp] theorem setI_pc (w : Word) : (s.setI w).pc = s.pc := rfl
@[simp] theorem setI_dt (w : Word) : (s.setI w).dt = s.dt := rfl
@[simp] theorem setI_st (w : Word) : (s.setI w).st = s.st := rfl
@[simp] theorem setI_stack (w : Word) : (s.setI w).stack = s.stack := rfl
@[simp] theorem setI_sp (w : Word) : (s.setI w).sp = s.sp := rfl
@[simp] theorem setI_mem (w : Word) : (s.setI w).mem = s.mem := rfl
@[simp] theorem setI_mode (w : Word) : (s.setI w).mode = s.mode := rfl
@[simp] theorem setI_err (w : Word) : (s.setI w).err = s.err := rfl
@[simp] theorem setI_params (w : Word) : (s.setI w).params = s.params := rfl
@[simp] theorem setI_fb (w : Word) : (s.setI w).fb = s.fb := rfl
@[simp] theorem setI_keys (w : Word) : (s.setI w).keys = s.keys := rfl
@[simp] theorem setI_draws (w : Word) : (s.setI w).draws = s.draws := rfl
@[simp] theorem setI_host (w : Word) : (s.setI w).host = s.host := rfl
@[simp] theorem setI_reply (w : Word) : (s.setI w).reply = s.reply := rfl

/-! `setPc` -/

@[simp] theorem setPc_v (w : Word) : (s.setPc w).v = s.v := rfl
@[simp] theorem setPc_i (w : Word) : (s.setPc w).i = s.i := rfl
@[simp] theorem setPc_pc (w : Word) : (s.setPc w).pc = w := rfl
@[simp] theorem setPc_dt (w : Word) : (s.setPc w).dt = s.dt := rfl
@[simp] theorem setPc_st (w : Word) : (s.setPc w).st = s.st := rfl
@[simp] theorem setPc_stack (w : Word) : (s.setPc w).stack = s.stack := rfl
@[simp] theorem setPc_sp (w : Word) : (s.setPc w).sp = s.sp := rfl
@[simp] theorem setPc_mem (w : Word) : (s.setPc w).mem = s.mem := rfl
@[simp] theorem setPc_mode (w : Word) : (s.setPc w).mode = s.mode := rfl
@[simp] theorem setPc_err (w : Word) : (s.setPc w).err = s.err := rfl
@[simp] theorem setPc_params (w : Word) : (s.setPc w).params = s.params := rfl
@[simp] theorem setPc_fb (w : Word) : (s.setPc w).fb = s.fb := rfl
@[simp] theorem setPc_keys (w : Word) : (s.setPc w).keys = s.keys := rfl
@[simp] theorem setPc_draws (w : Word) : (s.setPc w).draws = s.draws := rfl
@[simp] theorem setPc_host (w : Word) : (s.setPc w).host = s.host := rfl
@[simp] theorem setPc_reply (w : Word) : (s.setPc w).reply = s.reply := rfl

/-! `setDt` -/

@[simp] theorem setDt_v (b : Byte) : (s.setDt b).v = s.v := rfl
@[simp] theorem setDt_i (b : Byte) : (s.setDt b).i = s.i := rfl
@[simp] theorem setDt_pc (b : Byte) : (s.setDt b).pc = s.pc := rfl
@[simp] theorem setDt_dt (b : Byte) : (s.setDt b).dt = b := rfl
@[simp] theorem setDt_st (b : Byte) : (s.setDt b).st = s.st := rfl
@[simp] theorem setDt_stack (b : Byte) : (s.setDt b).stack = s.stack := rfl
@[simp] theorem setDt_sp (b : Byte) : (s.setDt b).sp = s.sp := rfl
@[simp] theorem setDt_mem (b : Byte) : (s.setDt b).mem = s.mem := rfl
@[simp] theorem setDt_mode (b : Byte) : (s.setDt b).mode = s.mode := rfl
@[simp] theorem setDt_err (b : Byte) : (s.setDt b).err = s.err := rfl
@[simp] theorem setDt_params (b : Byte) : (s.setDt b).params = s.params := rfl
@[simp] theorem setDt_fb (b : Byte) : (s.setDt b).fb = s.fb := rfl
@[simp] theorem setDt_keys (b : Byte) : (s.setDt b).keys = s.keys := rfl
@[simp] theorem setDt_draws (b : Byte) : (s.setDt b).draws = s.draws := rfl
@[simp] theorem setDt_host (b : Byte) : (s.setDt b).host = s.host := rfl
@[simp] theorem setDt_reply (b : Byte) : (s.setDt b).reply = s.reply := rfl

/-! `setSt` -/

@[simp] theorem setSt_v (b : Byte) : (s.setSt b).v = s.v := rfl
@[simp] theorem setSt_i (b : Byte) : (s.setSt b).i = s.i := rfl
@[simp] theorem setSt_pc (b : Byte) : (s.setSt b).pc = s.pc := rfl
@[simp] theorem setSt_dt (b : Byte) : (s.setSt b).dt = s.dt := rfl
@[simp] theorem setSt_st (b : Byte) : (s.setSt b).st = b := rfl
@[simp] theorem setSt_stack (b : Byte) : (s.setSt b).stack = s.stack := rfl
@[simp] theorem setSt_sp (b : Byte) : (s.setSt b).sp = s.sp := rfl
@[simp] theorem setSt_mem (b : Byte) : (s.setSt b).mem = s.mem := rfl
@[simp] theorem setSt_mode (b : Byte) : (s.setSt b).mode = s.mode := rfl
@[simp] theorem setSt_err (b : Byte) : (s.setSt b).err = s.err := rfl
@[simp] theorem setSt_params (b : Byte) : (s.setSt b).params = s.params := rfl
@[simp] theorem setSt_fb (b : Byte) : (s.setSt b).fb = s.fb := rfl
@[simp] theorem setSt_keys (b : Byte) : (s.setSt b).keys = s.keys := rfl
@[simp] theorem setSt_draws (b : Byte) : (s.setSt b).draws = s.draws := rfl
@[simp] theorem setSt_host (b : Byte) : (s.setSt b).host = s.host := rfl
@[simp] theorem setSt_reply (b : Byte) : (s.setSt b).reply = s.reply := rfl

/-! `setMode` -/

@[simp] theorem setMode_v (m : Mode) : (s.setMode m).v = s.v := rfl
@[simp] theorem setMode_i (m : Mode) : (s.setMode m).i = s.i := rfl
@[simp] theorem setMode_pc (m : Mode) : (s.setMode m).pc = s.pc := rfl
@[simp] theorem setMode_dt (m : Mode) : (s.setMode m).dt = s.dt := rfl
@[simp] theorem setMode_st (m : Mode) : (s.setMode m).st = s.st := rfl
@[simp] theorem setMode_stack (m : Mode) : (s.setMode m).stack = s.stack := rfl
@[simp] theorem setMode_sp (m : Mode) : (s.setMode m).sp = s.sp := rfl
@[simp] theorem setMode_mem (m : Mode) : (s.setMode m).mem = s.mem := rfl
@[simp] theorem setMode_mode (m : Mode) : (s.setMode m).mode = m := rfl
@[simp] theorem setMode_err (m : Mode) : (s.setMode m).err = s.err := rfl
@[simp] theorem setMode_params (m : Mode) : (s.setMode m).params = s.params := rfl
@[simp] theorem setMode_fb (m : Mode) : (s.setMode m).fb = s.fb := rfl
@[simp] theorem setMode_keys (m : Mode) : (s.setMode m).keys = s.keys := rfl
@[simp] theorem setMode_draws (m : Mode) : (s.setMode m).draws = s.draws := rfl
@[simp] theorem setMode_host (m : Mode) : (s.setMode m).host = s.host := rfl
@[simp] theorem setMode_reply (m : Mode) : (s.setMode m).reply = s.reply := rfl

/-! `setMem` -/

@[simp] theorem setMem_v (m : Memory) : (s.setMem m).v = s.v := rfl
@[simp] theorem setMem_i (m : Memory) : (s.setMem m).i = s.i := rfl
@[simp] theorem setMem_pc (m : Memory) : (s.setMem m).pc = s.pc := rfl
@[simp] theorem setMem_dt (m : Memory) : (s.setMem m).dt = s.dt := rfl
@[simp] theorem setMem_st (m : Memory) : (s.setMem m).st = s.st := rfl
@[simp] theorem setMem_stack (m : Memory) : (s.setMem m).stack = s.stack := rfl
@[simp] theorem setMem_sp (m : Memory) : (s.setMem m).sp = s.sp := rfl
@[simp] theorem setMem_mem (m : Memory) : (s.setMem m).mem = m := rfl
@[simp] theorem setMem_mode (m : Memory) : (s.setMem m).mode = s.mode := rfl
@[simp] theorem setMem_err (m : Memory) : (s.setMem m).err = s.err := rfl
@[simp] theorem setMem_params (m : Memory) : (s.setMem m).params = s.params := rfl
@[simp] theorem setMem_fb (m : Memory) : (s.setMem m).fb = s.fb := rfl
@[simp] theorem setMem_keys (m : Memory) : (s.setMem m).keys = s.keys := rfl
@[simp] theorem setMem_draws (m : Memory) : (s.setMem m).draws = s.draws := rfl
@[simp] theorem setMem_host (m : Memory) : (s.setMem m).host = s.host := rfl
@[simp] theorem setMem_reply (m : Memory) : (s.setMem m).reply = s.reply := rfl

/-! `setFb` -/

@[simp] theorem setFb_v (g : Grid) : (s.setFb g).v = s.v := rfl
@[simp] theorem setFb_i (g : Grid) : (s.setFb g).i = s.i := rfl
@[simp] theorem setFb_pc (g : Grid) : (s.setFb g).pc = s.pc := rfl
@[simp] theorem setFb_dt (g : Grid) : (s.setFb g).dt = s.dt := rfl
@[simp] theorem setFb_st (g : Grid) : (s.setFb g).st = s.st := rfl
@[simp] theorem setFb_stack (g : Grid) : (s.setFb g).stack = s.stack := rfl
@[simp] theorem setFb_sp (g : Grid) : (s.setFb g).sp = s.sp := rfl
@[simp] theorem setFb_mem (g : Grid) : (s.setFb g).mem = s.mem := rfl
@[simp] theorem setFb_mode (g : Grid) : (s.setFb g).mode = s.mode := rfl
@[simp] theorem setFb_err (g : Grid) : (s.setFb g).err = s.err := rfl
@[simp] theorem setFb_params (g : Grid) : (s.setFb g).params = s.params := rfl
@[simp] theorem setFb_fb (g : Grid) : (s.setFb g).fb = g := rfl
@[simp] theorem setFb_keys (g : Grid) : (s.setFb g).keys = s.keys := rfl
@[simp] theorem setFb_draws (g : Grid) : (s.setFb g).draws = s.draws := rfl
@[simp] theorem setFb_host (g : Grid) : (s.setFb g).host = s.host := rfl
@[simp] theorem setFb_reply (g : Grid) : (s.setFb g).reply = s.reply := rfl

/-! `setKeys` -/

@[simp] theorem setKeys_v (k : Vector Bool 16) : (s.setKeys k).v = s.v := rfl
@[simp] theorem setKeys_i (k : Vector Bool 16) : (s.setKeys k).i = s.i := rfl
@[simp] theorem setKeys_pc (k : Vector Bool 16) : (s.setKeys k).pc = s.pc := rfl
@[simp] theorem setKeys_dt (k : Vector Bool 16) : (s.setKeys k).dt = s.dt := rfl
@[simp] theorem setKeys_st (k : Vector Bool 16) : (s.setKeys k).st = s.st := rfl
@[simp] theorem setKeys_stack (k : Vector Bool 16) : (s.setKeys k).stack = s.stack := rfl
@[simp] theorem setKeys_sp (k : Vector Bool 16) : (s.setKeys k).sp = s.sp := rfl
@[simp] theorem setKeys_mem (k : Vector Bool 16) : (s.setKeys k).mem = s.mem := rfl
@[simp] theorem setKeys_mode (k : Vector Bool 16) : (s.setKeys k).mode = s.mode := rfl
@[simp] theorem setKeys_err (k : Vector Bool 16) : (s.setKeys k).err = s.err := rfl
@[simp] theorem setKeys_params (k : Vector Bool 16) : (s.setKeys k).params = s.params := rfl
@[simp] theorem setKeys_fb (k : Vector Bool 16) : (s.setKeys k).fb = s.fb := rfl
@[simp] theorem setKeys_keys (k : Vector Bool 16) : (s.setKeys k).keys = k := rfl
@[simp] theorem setKeys_draws (k : Vector Bool 16) : (s.setKeys k).draws = s.draws := rfl
@[simp] theorem setKeys_host (k : Vector Bool 16) : (s.setKeys k).host = s.host := rfl
@[simp] theorem setKeys_reply (k : Vector Bool 16) : (s.setKeys k).reply = s.reply := rfl

/-! `setReply` -/

@[simp] theorem setReply_v (r : Reply) : (s.setReply r).v = s.v := rfl
@[simp] theorem setReply_i (r : Reply) : (s.setReply r).i = s.i := rfl
@[simp] theorem setReply_pc (r : Reply) : (s.setReply r).pc = s.pc := rfl
@[simp] theorem setReply_dt (r : Reply) : (s.setReply r).dt = s.dt := rfl
@[simp] theorem setReply_st (r : Reply) : (s.setReply r).st = s.st := rfl
@[simp] theorem setReply_stack (r : Reply) : (s.setReply r).stack = s.stack := rfl
@[simp] theorem setReply_sp (r : Reply) : (s.setReply r).sp = s.sp := rfl
@[simp] theorem setReply_mem (r : Reply) : (s.setReply r).mem = s.mem := rfl
@[simp] theorem setReply_mode (r : Reply) : (s.setReply r).mode = s.mode := rfl
@[simp] theorem setReply_err (r : Reply) : (s.setReply r).err = s.err := rfl
@[simp] theorem setReply_params (r : Reply) : (s.setReply r).params = s.params := rfl
@[simp] theorem setReply_fb (r : Reply) : (s.setReply r).fb = s.fb := rfl
@[simp] theorem setReply_keys (r : Reply) : (s.setReply r).keys = s.keys := rfl
@[simp] theorem setReply_draws (r : Reply) : (s.setReply r).draws = s.draws := rfl
@[simp] theorem setReply_host (r : Reply) : (s.setReply r).host = s.host := rfl
@[simp] theorem setReply_reply (r : Reply) : (s.setReply r).reply = r := rfl

/-! `requestRedraw` -/

@[simp] theorem requestRedraw_v : (s.requestRedraw).v = s.v := rfl
@[simp] theorem requestRedraw_i : (s.requestRedraw).i = s.i := rfl
@[simp] theorem requestRedraw_pc : (s.requestRedraw).pc = s.pc := rfl
@[simp] theorem requestRedraw_dt : (s.requestRedraw).dt = s.dt := rfl
@[simp] theorem requestRedraw_st : (s.requestRedraw).st = s.st := rfl
@[simp] theorem requestRedraw_stack : (s.requestRedraw).stack = s.stack := rfl
@[simp] theorem requestRedraw_sp : (s.requestRedraw).sp = s.sp := rfl
@[simp] theorem requestRedraw_mem : (s.requestRedraw).mem = s.mem := rfl
@[simp] theorem requestRedraw_mode : (s.requestRedraw).mode = s.mode := rfl
@[simp] theorem requestRedraw_err : (s.requestRedraw).err = s.err := rfl
@[simp] theorem requestRedraw_params : (s.requestRedraw).params = s.params := rfl
@[simp] theorem requestRedraw_fb : (s.requestRedraw).fb = s.fb := rfl
@[simp] theorem requestRedraw_keys : (s.requestRedraw).keys = s.keys := rfl
@[simp] theorem requestRedraw_draws : (s.requestRedraw).draws = s.draws := rfl
@[simp] theorem requestRedraw_host : (s.requestRedraw).host = s.host := rfl
@[simp] theorem requestRedraw_reply : (s.requestRedraw).reply = .report true none := rfl

/-! `setFlag` -/

@[simp] theorem setFlag_v (f : Bool) : (s.setFlag f).v = s.v.set 15 (if f then 1#8 else 0#8) := rfl
@[simp] theorem setFlag_i (f : Bool) : (s.setFlag f).i = s.i := rfl
@[simp] theorem setFlag_pc (f : Bool) : (s.setFlag f).pc = s.pc := rfl
@[simp] theorem setFlag_dt (f : Bool) : (s.setFlag f).dt = s.dt := rfl
@[simp] theorem setFlag_st (f : Bool) : (s.setFlag f).st = s.st := rfl
@[simp] theorem setFlag_stack (f : Bool) : (s.setFlag f).stack = s.stack := rfl
@[simp] theorem setFlag_sp (f : Bool) : (s.setFlag f).sp = s.sp := rfl
@[simp] theorem setFlag_mem (f : Bool) : (s.setFlag f).mem = s.mem := rfl
@[simp] theorem setFlag_mode (f : Bool) : (s.setFlag f).mode = s.mode := rfl
@[simp] theorem setFlag_err (f : Bool) : (s.setFlag f).err = s.err := rfl
@[simp] theorem setFlag_params (f : Bool) : (s.setFlag f).params = s.params := rfl
@[simp] theorem setFlag_fb (f : Bool) : (s.setFlag f).fb = s.fb := rfl
@[simp] theorem setFlag_keys (f : Bool) : (s.setFlag f).keys = s.keys := rfl
@[simp] theorem setFlag_draws (f : Bool) : (s.setFlag f).draws = s.draws := rfl
@[simp] theorem setFlag_host (f : Bool) : (s.setFlag f).host = s.host := rfl
@[simp] theorem setFlag_reply (f : Bool) : (s.setFlag f).reply = s.reply := rfl

/-! `tick` -/

@[simp] theorem tick_v : (s.tick).v = s.v := rfl
@[simp] theorem tick_i : (s.tick).i = s.i := rfl
@[simp] theorem tick_pc : (s.tick).pc = s.pc := rfl
@[simp] theorem tick_dt : (s.tick).dt = tickTimer s.dt := rfl
@[simp] theorem tick_st : (s.tick).st = tickTimer s.st := rfl
@[simp] theorem tick_stack : (s.tick).stack = s.stack := rfl
@[simp] theorem tick_sp : (s.tick).sp = s.sp := rfl
@[simp] theorem tick_mem : (s.tick).mem = s.mem := rfl
@[simp] theorem tick_mode : (s.tick).mode = s.mode := rfl
@[simp] theorem tick_err : (s.tick).err = s.err := rfl
@[simp] theorem tick_params : (s.tick).params = s.params := rfl
@[simp] theorem tick_fb : (s.tick).fb = s.fb := rfl
@[simp] theorem tick_keys : (s.tick).keys = s.keys := rfl
@[simp] theorem tick_draws : (s.tick).draws = s.draws := rfl
@[simp] theorem tick_host : (s.tick).host = s.host := rfl
@[simp] theorem tick_reply : (s.tick).reply = s.reply := rfl

/-! `beginCycle` -/

@[simp] theorem beginCycle_v : (s.beginCycle).v = s.v := rfl
@[simp] theorem beginCycle_i : (s.beginCycle).i = s.i := rfl
@[simp] theorem beginCycle_pc : (s.beginCycle).pc = s.pc + 2 := rfl
@[simp] theorem beginCycle_dt : (s.beginCycle).dt = s.dt := rfl
@[simp] theorem beginCycle_st : (s.beginCycle).st = s.st := rfl
@[simp] theorem beginCycle_stack : (s.beginCycle).stack = s.stack := rfl
@[simp] theorem beginCycle_sp : (s.beginCycle).sp = s.sp := rfl
@[simp] theorem beginCycle_mem : (s.beginCycle).mem = s.mem := rfl
@[simp] theorem beginCycle_mode : (s.beginCycle).mode = s.mode := rfl
@[simp] theorem beginCycle_err : (s.beginCycle).err = s.err := rfl
@[simp] theorem beginCycle_params : (s.beginCycle).params = s.params := rfl
@[simp] theorem beginCycle_fb : (s.beginCycle).fb = s.fb := rfl
@[simp] theorem beginCycle_keys : (s.beginCycle).keys = s.keys := rfl
@[simp] theorem beginCycle_draws : (s.beginCycle).draws = s.draws := rfl
@[simp] theorem beginCycle_host : (s.beginCycle).host = s.host := rfl
@[simp] theorem beginCycle_reply : (s.beginCycle).reply = .report false none := rfl

/-! `raise` -/

@[simp] theorem raise_v (k : ErrKind) (op : Word) : (s.raise k op).v = s.v := rfl
@[simp] theorem raise_i (k : ErrKind) (op : Word) : (s.raise k op).i = s.i := rfl
@[simp] theorem raise_pc (k : ErrKind) (op : Word) : (s.raise k op).pc = s.pc - 2 := rfl
@[simp] theorem raise_dt (k : ErrKind) (op : Word) : (s.raise k op).dt = s.dt := rfl
@[simp] theorem raise_st (k : ErrKind) (op : Word) : (s.raise k op).st = s.st := rfl
@[simp] theorem raise_stack (k : ErrKind) (op : Word) : (s.raise k op).stack = s.stack := rfl
@[simp] theorem raise_sp (k : ErrKind) (op : Word) : (s.raise k op).sp = s.sp := rfl
@[simp] theorem raise_mem (k : ErrKind) (op : Word) : (s.raise k op).mem = s.mem := rfl
@[simp] theorem raise_mode (k : ErrKind) (op : Word) : (s.raise k op).mode = .faulted := rfl
@[simp] theorem raise_err (k : ErrKind) (op : Word) : (s.raise k op).err = some ⟨k, op, s.pc - 2⟩ := rfl
@[simp] theorem raise_params (k : ErrKind) (op : Word) : (s.raise k op).params = s.params := rfl
@[simp] theorem raise_fb (k : ErrKind) (op : Word) : (s.raise k op).fb = s.fb := rfl
@[simp] theorem raise_keys (k : ErrKind) (op : Word) : (s.raise k op).keys = s.keys := rfl
@[simp] theorem raise_draws (k : ErrKind) (op : Word) : (s.raise k op).draws = s.draws := rfl
@[simp] theorem raise_host (k : ErrKind) (op : Word) : (s.raise k op).host = s.host := rfl
@[simp] theorem raise_reply (k : ErrKind) (op : Word) : (s.raise k op).reply = .report false (some ⟨k, op, s.pc - 2⟩) := rfl

/-! Reading a register after an update -/

@[simp] theorem getV_setI (w : Word) (j : Reg) : (s.setI w).getV j = s.getV j := rfl
@[simp] theorem getV_setPc (w : Word) (j : Reg) : (s.setPc w).getV j = s.getV j := rfl
@[simp] theorem getV_setDt (b : Byte) (j : Reg) : (s.setDt b).getV j = s.getV j := rfl
@[simp] theorem getV_setSt (b : Byte) (j : Reg) : (s.setSt b).getV j = s.getV j := rfl
@[simp] theorem getV_setMode (m : Mode) (j : Reg) : (s.setMode m).getV j = s.getV j := rfl
@[simp] theorem getV_setMem (m : Memory) (j : Reg) : (s.setMem m).getV j = s.getV j := rfl
@[simp] theorem getV_setFb (g : Grid) (j : Reg) : (s.setFb g).getV j = s.getV j := rfl
@[simp] theorem getV_setKeys (k : Vector Bool 16) (j : Reg) : (s.setKeys k).getV j = s.getV j := rfl
@[simp] theorem getV_setReply (r : Reply) (j : Reg) : (s.setReply r).getV j = s.getV j := rfl
@[simp] theorem getV_requestRedraw (j : Reg) : (s.requestRedraw).getV j = s.getV j := rfl
@[simp] theorem getV_tick (j : Reg) : (s.tick).getV j = s.getV j := rfl
@[simp] theorem getV_beginCycle (j : Reg) : (s.beginCycle).getV j = s.getV j := rfl
@[simp] theorem getV_raise (k : ErrKind) (op : Word) (j : Reg) : (s.raise k op).getV j = s.getV j := rfl

@[simp] theorem draw8_fst : s.draw8.1 = Config.randByte s.draws := rfl
@[simp] theorem draw8_snd : s.draw8.2 = { s with draws := s.draws + 1 } := rfl

theorem getV_setV (x : Reg) (b : Byte) (j : Reg) :
    (s.setV x b).getV j = if j = x then b else s.getV j := by
  simp only [getV, setV_v, Vector.getElem_set, Fin.ext_iff, eq_comm]

@[simp] theorem getV_setV_same (x : Reg) (b : Byte) : (s.setV x b).getV x = b := by
  simp [getV_setV]

theorem getV_setV_ne {x j : Reg} (b : Byte) (h : j ≠ x) : (s.setV x b).getV j = s.getV j := by
  simp [getV_setV, h]

theorem getV_setFlag (f : Bool) (j : Reg) :
    (s.setFlag f).getV j = if j = 15 then (if f then 1#8 else 0#8) else s.getV j :=
  getV_setV s 15 _ j

/-- Two register files are equal when every register reads the same. -/
theorem v_ext {s t : State} (h : ∀ j : Reg, s.getV j = t.getV j) : s.v = t.v := by
  apply Vector.ext
  intro k hk
  exact h ⟨k, hk⟩

end State
end Sys2Proof.Machine
end

