-- ==== Sys2Proof/Laws/Ops.lean ====
section
/-! SUPPORT. One lemma per shared operation that says everything it can do, for citing instead of unfolding. -/

namespace Sys2Proof.Machine
namespace State

/-! ### The call stack -/

/-- A push succeeds with fewer than sixteen live entries, writes the entry above the top and raises the depth. -/
theorem push_of_lt (s : State) (w : Word) (h : s.sp.val < 16) :
    s.push w = some { s with stack := s.stack.set s.sp.val w, sp := ⟨s.sp.val + 1, by omega⟩ } := dif_pos h

theorem push_full (s : State) (w : Word) (h : s.sp = 16) : s.push w = none :=
  dif_neg (by rw [h]; decide)

/-- A pop succeeds with a live entry, gives the top one and lowers the depth. -/
theorem pop_of_pos (s : State) (h : 0 < s.sp.val) :
    s.pop = some (s.stack[s.sp.val - 1], { s with sp := ⟨s.sp.val - 1, by omega⟩ }) := dif_pos h

theorem pop_empty (s : State) (h : s.sp = 0) : s.pop = none :=
  dif_neg (by rw [h]; decide)

theorem sp_eq_full {s : State} (h : ¬s.sp.val < 16) : s.sp = 16 := by
  apply Fin.ext
  have := s.sp.isLt
  change s.sp.val = 16
  omega

theorem sp_eq_empty {s : State} (h : ¬0 < s.sp.val) : s.sp = 0 := by
  apply Fin.ext
  change s.sp.val = 0
  omega

/-- Writing the entry above the top and counting it adds it to the live entries. -/
theorem take_set_succ (v : Vector Word 16) (n : Nat) (h : n < 16) (w : Word) :
    (v.set n w).toList.take (n + 1) = v.toList.take n ++ [w] := by
  rw [Vector.toList_set, List.take_set, List.take_add_one, List.set_append]
  simp [h, Nat.min_eq_left (Nat.le_of_lt h)]

/-- The live entries below the top, and the top. -/
theorem take_pred (v : Vector Word 16) (n : Nat) (h : 0 < n) (hn : n < 17) :
    v.toList.take n = v.toList.take (n - 1) ++ [v[n - 1]] := by
  obtain ⟨k, rfl⟩ : ∃ k, n = k + 1 := ⟨n - 1, by omega⟩
  rw [List.take_add_one]
  simp [show k < 16 by omega]

/-! ### The start and the end of a cycle -/

theorem pc_add_sub (w : Word) : w + 2 - 2 = w := BitVec.add_sub_cancel w 2

/-- Undoing the advance of `PC` gives the address the instruction was fetched from (R255). -/
theorem raise_beginCycle (s : State) (k : ErrKind) (op : Word) :
    s.beginCycle.raise k op =
      { s with pc := s.pc, mode := .faulted, err := some ⟨k, op, s.pc⟩, reply := .report false (some ⟨k, op, s.pc⟩) } := by
  simp only [raise, beginCycle, pc_add_sub]

theorem endCycle_faulted (s : State) (h : s.mode = .faulted) : s.endCycle = s := if_pos h

theorem endCycle_tick (s : State) (h : s.mode ≠ .faulted) : s.endCycle = s.tick := if_neg h

/-- A timer's decrement never goes below zero (10_state.md R28). -/
theorem tickTimer_toNat (b : Byte) : (tickTimer b).toNat = b.toNat - 1 := by
  simp only [tickTimer]
  split
  · next h =>
    have : b.toNat ≠ 0 := fun h0 => h (BitVec.eq_of_toNat_eq h0)
    have := b.isLt
    rw [BitVec.toNat_sub, show (1 : Byte).toNat = 1 from rfl]
    omega
  · next h => rw [not_not.mp h]; rfl

/-- `endCycle` changes nothing but the two timers. -/
theorem endCycle_eq (s : State) :
    s.endCycle = { s with dt := s.endCycle.dt, st := s.endCycle.st } := by
  simp only [endCycle]
  split <;> rfl

theorem fetch_congr {s t : State} (hm : t.mem = s.mem) (hp : t.pc = s.pc) : t.fetch = s.fetch := by
  simp only [fetch, hm, hp]

/-! ### A step is one transaction -/

/-- With no transaction pending a step is the `step` transaction. -/
theorem issue_nil {s : State} (h : s.host = []) : s.issue = s.hostStep := by
  simp only [issue, h, transact]

/-- With transactions pending a step is the first of them. -/
theorem issue_cons {s : State} {tr : Transaction} {rest : List Transaction} (h : s.host = tr :: rest) :
    s.issue = { s with host := rest }.transact tr := by
  simp only [issue, h]

end State

/-- Everything a skip can do: `PC` is raised by 2 or the state is left as it is (41_control_flow.md R158). -/
theorem skipIf_eq (c : Bool) (s : State) : skipIf c s = s.setPc (if c then s.pc + 2 else s.pc) := by
  cases c <;> rfl

/-- Everything a call can do: push and jump with fewer than sixteen live entries, else the fatal error. -/
theorem execCall_eq (nnn : Imm12) (s : State) :
    execCall nnn s = .next (if h : s.sp.val < 16 then
      { s with pc := nnn.toWord, stack := s.stack.set s.sp.val s.pc, sp := ⟨s.sp.val + 1, by omega⟩ }
      else s.raise .stackOverflow (encode (.call nnn))) := by
  by_cases h : s.sp.val < 16
  · rw [execCall, s.push_of_lt _ h, dif_pos h]; rfl
  · rw [execCall, s.push_full _ (State.sp_eq_full h), dif_neg h]

/-- Everything a return can do: pop into `PC` with a live entry, else the fatal error. -/
theorem execRet_eq (s : State) :
    execRet s = .next (if h : 0 < s.sp.val then
      { s with pc := s.stack[s.sp.val - 1], sp := ⟨s.sp.val - 1, by omega⟩ }
      else s.raise .stackUnderflow (encode .ret)) := by
  by_cases h : 0 < s.sp.val
  · rw [execRet, s.pop_of_pos h, dif_pos h]; rfl
  · rw [execRet, s.pop_empty (State.sp_eq_empty h), dif_neg h]

end Sys2Proof.Machine
end

