-- ==== Sys2Proof/Laws/Exec.lean ====
section
/-! SUPPORT. What every instruction and every step can do, said once: for citing instead of unfolding `exec` and `step`. -/

namespace Sys2Proof.Machine

/-- Every instruction answers a next state. -/
theorem exec_next (i : Instr) (s : State) : ∃ t : State, exec i s = .next t := by
  cases i
  case ret => exact ⟨_, execRet_eq s⟩
  case call nnn => exact ⟨_, execCall_eq nnn s⟩
  all_goals exact ⟨_, rfl⟩

/-- What no instruction changes or breaks: the parameters, the host's pending transactions, the canonical form of memory
and the shape of the grid. -/
structure Kept (s t : State) : Prop where
  params : t.params = s.params
  host : t.host = s.host
  memCanonical : s.mem.wf = true → t.mem.wf = true
  gridShaped : ∀ w h : Nat, s.fb.shaped w h = true → t.fb.shaped w h = true

theorem Kept.skipIf (c : Bool) (s : State) : Kept s (skipIf c s) := by
  rw [skipIf_eq]
  exact ⟨rfl, rfl, id, fun _ _ => id⟩

theorem exec_kept {i : Instr} {s t : State} (h : exec i s = .next t) : Kept s t := by
  cases i
  case ret => rw [exec, execRet_eq] at h; split at h <;> cases h <;> exact ⟨rfl, rfl, id, fun _ _ => id⟩
  case call => rw [exec, execCall_eq] at h; split at h <;> cases h <;> exact ⟨rfl, rfl, id, fun _ _ => id⟩
  case seI | sneI | seR | sneR | skp | sknp => all_goals injection h with h; rw [← h]; exact Kept.skipIf ..
  case bcd => injection h with h; rw [← h]; exact ⟨rfl, rfl, Memory.writeList_wf _ _, fun _ _ => id⟩
  case stm => injection h with h; rw [← h]; exact ⟨rfl, rfl, Memory.writeList_wf _ _, fun _ _ => id⟩
  case cls => injection h with h; rw [← h]; exact ⟨rfl, rfl, id, fun _ _ => Grid.clear_shaped⟩
  case drw => injection h with h; rw [← h]; exact ⟨rfl, rfl, id, fun _ _ => xorPixels_shaped _ _⟩
  all_goals injection h with h; rw [← h]; exact ⟨rfl, rfl, id, fun _ _ => id⟩

namespace State

/-- In `Running` the `step` transaction is one cycle. -/
theorem hostStep_running {s : State} (h : s.mode = .running) : s.hostStep = s.cycle := by
  simp only [hostStep, h]

/-- A cycle whose opcode decodes is the instruction and then the tick. -/
theorem cycle_ok {s t : State} {i : Instr} (hd : decode s.fetch = .ok i) (h : s.cycle = .next t) :
    ∃ u : State, exec i s.beginCycle = .next u ∧ t = u.endCycle := by
  obtain ⟨u, hu⟩ := exec_next i s.beginCycle
  rw [cycle, hd] at h
  simp only [hu] at h
  cases h
  exact ⟨u, hu, rfl⟩

/-- A cycle whose opcode is no instruction takes the fatal error. -/
theorem cycle_illegal {s : State} {e : DecodeError} (hd : decode s.fetch = .error e) :
    s.cycle = .next (s.beginCycle.raise .unrecognizedOpcode s.fetch) := by
  rw [cycle, hd]

end State

/-- When the next transaction is `step`, the step is that transaction. -/
theorem step_of_stepsThen {s : State} {rest : List Transaction} (h : s.StepsThen rest) :
    step s = { s with host := rest }.hostStep := by
  rcases h with ⟨h, rfl⟩ | h
  · change s.issue = _
    rw [State.issue_nil h]
    cases s
    cases h
    rfl
  · exact State.issue_cons h

/-- A running step whose opcode decodes is the instruction and then the tick. -/
theorem step_of_aboutToRun {s t : State} {i : Instr} (h : s.AboutToRun i) (ht : exec i s.beginCycle = .next t) :
    step s = .next t.endCycle := by
  obtain ⟨hh, hm, hd⟩ := h
  change s.issue = _
  rw [State.issue_nil hh, State.hostStep_running hm, State.cycle, hd]
  simp only [ht]

end Sys2Proof.Machine
end

