-- ==== Sys2Proof/Laws/PerInstr.lean ====
section
/-! SUPPORT. The family EncodingRow: every instruction's opcode selects the instruction's own row of the opcode map
(30_encoding.md R96), one lemma per constructor. -/

namespace Sys2Proof.Laws.EncodingRow

/-- The opcode of an instruction selects the instruction's row, and that row is in the map (R96). -/
def Statement (i : Instr) : Prop := i.row.selects (encode i) = true ∧ i.row ∈ opcodeMap

theorem selects_NNN (t : BitVec 4) (nnn : Imm12) (m : String) :
    (OpcodeRow.mk m (t ++ 0x000#12 : Word) 0xF000).selects (fmtNNN t nnn) = true := by
  simp only [OpcodeRow.selects, beq_iff_eq, fmtNNN]
  apply BitVec.eq_of_getLsbD_eq
  intro k hk
  rw [BitVec.getLsbD_and, BitVec.getLsbD_append, BitVec.getLsbD_append]
  interval_cases k <;> simp

theorem selects_XNN (t : BitVec 4) (x : Reg) (nn : Byte) (m : String) :
    (OpcodeRow.mk m (t ++ 0x000#12 : Word) 0xF000).selects (fmtXNN t x nn) = true := by
  simp only [OpcodeRow.selects, beq_iff_eq, fmtXNN]
  apply BitVec.eq_of_getLsbD_eq
  intro k hk
  rw [BitVec.getLsbD_and, BitVec.getLsbD_append, BitVec.getLsbD_append, BitVec.getLsbD_append]
  interval_cases k <;> simp

theorem selects_X (t : BitVec 4) (x : Reg) (nn : Byte) (m : String) :
    (OpcodeRow.mk m (t ++ 0x0#4 ++ nn : Word) 0xF0FF).selects (fmtXNN t x nn) = true := by
  simp only [OpcodeRow.selects, beq_iff_eq, fmtXNN]
  apply BitVec.eq_of_getLsbD_eq
  intro k hk
  rw [BitVec.getLsbD_and, BitVec.getLsbD_append, BitVec.getLsbD_append, BitVec.getLsbD_append, BitVec.getLsbD_append]
  interval_cases k <;> simp

theorem selects_XY (t : BitVec 4) (x y : Reg) (n : BitVec 4) (m : String) :
    (OpcodeRow.mk m (t ++ 0x00#8 ++ n : Word) 0xF00F).selects (fmtXYN t x y n) = true := by
  simp only [OpcodeRow.selects, beq_iff_eq, fmtXYN]
  apply BitVec.eq_of_getLsbD_eq
  intro k hk
  rw [BitVec.getLsbD_and, BitVec.getLsbD_append, BitVec.getLsbD_append, BitVec.getLsbD_append, BitVec.getLsbD_append,
    BitVec.getLsbD_append]
  interval_cases k <;> simp

theorem selects_XYN (t : BitVec 4) (x y : Reg) (n : BitVec 4) (m : String) :
    (OpcodeRow.mk m (t ++ 0x000#12 : Word) 0xF000).selects (fmtXYN t x y n) = true := by
  simp only [OpcodeRow.selects, beq_iff_eq, fmtXYN]
  apply BitVec.eq_of_getLsbD_eq
  intro k hk
  rw [BitVec.getLsbD_and, BitVec.getLsbD_append, BitVec.getLsbD_append, BitVec.getLsbD_append, BitVec.getLsbD_append]
  interval_cases k <;> simp

theorem cls : Statement .cls := ⟨by decide, by simp [Instr.row, opcodeMap, opcodeRowsA, opcodeRowsB, opcodeRowsC]⟩
theorem ret : Statement .ret := ⟨by decide, by simp [Instr.row, opcodeMap, opcodeRowsA, opcodeRowsB, opcodeRowsC]⟩
theorem jp (nnn : Imm12) : Statement (.jp nnn) := ⟨selects_NNN _ nnn _, by simp [Instr.row, opcodeMap, opcodeRowsA, opcodeRowsB, opcodeRowsC]⟩
theorem call (nnn : Imm12) : Statement (.call nnn) := ⟨selects_NNN _ nnn _, by simp [Instr.row, opcodeMap, opcodeRowsA, opcodeRowsB, opcodeRowsC]⟩
theorem seI (x : Reg) (nn : Byte) : Statement (.seI x nn) := ⟨selects_XNN _ x nn _, by simp [Instr.row, opcodeMap, opcodeRowsA, opcodeRowsB, opcodeRowsC]⟩
theorem sneI (x : Reg) (nn : Byte) : Statement (.sneI x nn) := ⟨selects_XNN _ x nn _, by simp [Instr.row, opcodeMap, opcodeRowsA, opcodeRowsB, opcodeRowsC]⟩
theorem seR (x : Reg) (y : Reg) : Statement (.seR x y) := ⟨selects_XY _ x y _ _, by simp [Instr.row, opcodeMap, opcodeRowsA, opcodeRowsB, opcodeRowsC]⟩
theorem ldI (x : Reg) (nn : Byte) : Statement (.ldI x nn) := ⟨selects_XNN _ x nn _, by simp [Instr.row, opcodeMap, opcodeRowsA, opcodeRowsB, opcodeRowsC]⟩
theorem addI (x : Reg) (nn : Byte) : Statement (.addI x nn) := ⟨selects_XNN _ x nn _, by simp [Instr.row, opcodeMap, opcodeRowsA, opcodeRowsB, opcodeRowsC]⟩
theorem ldR (x : Reg) (y : Reg) : Statement (.ldR x y) := ⟨selects_XY _ x y _ _, by simp [Instr.row, opcodeMap, opcodeRowsA, opcodeRowsB, opcodeRowsC]⟩
theorem or (x : Reg) (y : Reg) : Statement (.or x y) := ⟨selects_XY _ x y _ _, by simp [Instr.row, opcodeMap, opcodeRowsA, opcodeRowsB, opcodeRowsC]⟩
theorem and (x : Reg) (y : Reg) : Statement (.and x y) := ⟨selects_XY _ x y _ _, by simp [Instr.row, opcodeMap, opcodeRowsA, opcodeRowsB, opcodeRowsC]⟩
theorem xor (x : Reg) (y : Reg) : Statement (.xor x y) := ⟨selects_XY _ x y _ _, by simp [Instr.row, opcodeMap, opcodeRowsA, opcodeRowsB, opcodeRowsC]⟩
theorem addR (x : Reg) (y : Reg) : Statement (.addR x y) := ⟨selects_XY _ x y _ _, by simp [Instr.row, opcodeMap, opcodeRowsA, opcodeRowsB, opcodeRowsC]⟩
theorem sub (x : Reg) (y : Reg) : Statement (.sub x y) := ⟨selects_XY _ x y _ _, by simp [Instr.row, opcodeMap, opcodeRowsA, opcodeRowsB, opcodeRowsC]⟩
theorem shr (x : Reg) (y : Reg) : Statement (.shr x y) := ⟨selects_XY _ x y _ _, by simp [Instr.row, opcodeMap, opcodeRowsA, opcodeRowsB, opcodeRowsC]⟩
theorem subn (x : Reg) (y : Reg) : Statement (.subn x y) := ⟨selects_XY _ x y _ _, by simp [Instr.row, opcodeMap, opcodeRowsA, opcodeRowsB, opcodeRowsC]⟩
theorem shl (x : Reg) (y : Reg) : Statement (.shl x y) := ⟨selects_XY _ x y _ _, by simp [Instr.row, opcodeMap, opcodeRowsA, opcodeRowsB, opcodeRowsC]⟩
theorem sneR (x : Reg) (y : Reg) : Statement (.sneR x y) := ⟨selects_XY _ x y _ _, by simp [Instr.row, opcodeMap, opcodeRowsA, opcodeRowsB, opcodeRowsC]⟩
theorem ldIdx (nnn : Imm12) : Statement (.ldIdx nnn) := ⟨selects_NNN _ nnn _, by simp [Instr.row, opcodeMap, opcodeRowsA, opcodeRowsB, opcodeRowsC]⟩
theorem jpOff (x : Reg) (nnn : Imm12) : Statement (.jpOff x nnn) := ⟨selects_NNN _ nnn _, by simp [Instr.row, opcodeMap, opcodeRowsA, opcodeRowsB, opcodeRowsC]⟩
theorem rnd (x : Reg) (nn : Byte) : Statement (.rnd x nn) := ⟨selects_XNN _ x nn _, by simp [Instr.row, opcodeMap, opcodeRowsA, opcodeRowsB, opcodeRowsC]⟩
theorem drw (x : Reg) (y : Reg) (n : Nat) : Statement (.drw x y n) := ⟨selects_XYN _ x y _ _, by simp [Instr.row, opcodeMap, opcodeRowsA, opcodeRowsB, opcodeRowsC]⟩
theorem skp (x : Reg) : Statement (.skp x) := ⟨selects_X _ x _ _, by simp [Instr.row, opcodeMap, opcodeRowsA, opcodeRowsB, opcodeRowsC]⟩
theorem sknp (x : Reg) : Statement (.sknp x) := ⟨selects_X _ x _ _, by simp [Instr.row, opcodeMap, opcodeRowsA, opcodeRowsB, opcodeRowsC]⟩
theorem ldFromDt (x : Reg) : Statement (.ldFromDt x) := ⟨selects_X _ x _ _, by simp [Instr.row, opcodeMap, opcodeRowsA, opcodeRowsB, opcodeRowsC]⟩
theorem waitkey (x : Reg) : Statement (.waitkey x) := ⟨selects_X _ x _ _, by simp [Instr.row, opcodeMap, opcodeRowsA, opcodeRowsB, opcodeRowsC]⟩
theorem ldDt (x : Reg) : Statement (.ldDt x) := ⟨selects_X _ x _ _, by simp [Instr.row, opcodeMap, opcodeRowsA, opcodeRowsB, opcodeRowsC]⟩
theorem ldSt (x : Reg) : Statement (.ldSt x) := ⟨selects_X _ x _ _, by simp [Instr.row, opcodeMap, opcodeRowsA, opcodeRowsB, opcodeRowsC]⟩
theorem addIdx (x : Reg) : Statement (.addIdx x) := ⟨selects_X _ x _ _, by simp [Instr.row, opcodeMap, opcodeRowsA, opcodeRowsB, opcodeRowsC]⟩
theorem font (x : Reg) : Statement (.font x) := ⟨selects_X _ x _ _, by simp [Instr.row, opcodeMap, opcodeRowsA, opcodeRowsB, opcodeRowsC]⟩
theorem bcd (x : Reg) : Statement (.bcd x) := ⟨selects_X _ x _ _, by simp [Instr.row, opcodeMap, opcodeRowsA, opcodeRowsB, opcodeRowsC]⟩
theorem stm (x : Reg) : Statement (.stm x) := ⟨selects_X _ x _ _, by simp [Instr.row, opcodeMap, opcodeRowsA, opcodeRowsB, opcodeRowsC]⟩
theorem ldm (x : Reg) : Statement (.ldm x) := ⟨selects_X _ x _ _, by simp [Instr.row, opcodeMap, opcodeRowsA, opcodeRowsB, opcodeRowsC]⟩

end Sys2Proof.Laws.EncodingRow
end

