-- ==== Sys2Proof/Tests/Slice0.lean ====
section
/-! SUPPORT. Tests whose expected results are those printed in 95_test_vectors.md (each comment names the vector), words
written out from the formats of 30_encoding.md, the check of ill-formed terms, and for every statement with hypotheses a
named witness that meets them. -/

namespace Sys2Proof.Tests

open Sys2Proof Sys2Proof.Machine

/-! ### Helpers -/

/-- Parameters with the quirks given in the order of 95_test_vectors.md and a display of `w` by `h`. -/
def paramsOf (a b c : Bool) (w h : Nat) : Params where
  qShiftVxOnly := a
  qJumpVx := b
  qMemKeepI := c
  displayW := w
  displayH := h
  font := Config.defaultFont

/-- A grid with exactly the listed pixels on. -/
def gridOf (w h : Nat) (on : List (Nat × Nat)) : Grid :=
  (List.range h).map fun py => (List.range w).map fun px => on.contains (px, py)

/-- The start state of 95_test_vectors.md: after `load`, all pixels off, all keys released, all quirks false. -/
def base : State :=
  { State.reset with
    params := paramsOf false false false 64 32
    fb := gridOf 64 32 []
    keys := Vector.replicate 16 false }

/-- The start state with other quirks. -/
def quirky (a b c : Bool) : State := { base with params := paramsOf a b c 64 32 }

/-- The start state on a small display, which an evaluation walks through faster. -/
def small (w h : Nat) (on : List (Nat × Nat)) : State :=
  { base with params := paramsOf false false false w h, fb := gridOf w h on }

/-- Set registers. -/
def withV (vs : List (Reg × Byte)) (s : State) : State := vs.foldl (fun t p => t.setV p.1 p.2) s

/-- Set bytes of memory from an address on. -/
def withMem (a : Nat) (bs : List Byte) (s : State) : State := s.setMem (s.mem.writeList a bs)

/-- Press a key before the run. -/
def withKey (k : Key) (s : State) : State := s.setKeys (s.keys.set k.val true)

/-- What one step on the opcode gives, seen through `f`; `none` would be a fault or a refusal. -/
def after {α : Type} (s : State) (op : Nat) (f : State → α) : Option α :=
  match step (s.withFetchWord 16 op) with
  | .next t => some (f t)
  | .fault _ => none
  | .refused _ => none

/-- What the host's transactions give, one step each, seen through `f`. -/
def afterHost {α : Type} (s : State) (tr : Transaction) (f : State → α) : Option α :=
  match step { s with host := [tr] } with
  | .next t => some (f t)
  | .fault _ => none
  | .refused _ => none

/-! ### Well-formed instructions: a term for each check that the check refuses -/

theorem test_wellFormed_row_count : (Instr.drw 1 2 15).wellFormed = true ∧ (Instr.drw 1 2 16).wellFormed = false := by
  decide

theorem test_wellFormed_kept_register :
    (Instr.jpOff 3 0x300).wellFormed = true ∧ (Instr.jpOff 4 0x300).wellFormed = false := by
  decide

/-! ### Decoding words written out from the formats of R92 and the map of R96 -/

/-- Families 0 to 2; `10E0` is a vector of section 2. -/
theorem test_decode_system_and_jumps :
    decode 0b0000_0000_1110_0000 = .ok .cls ∧ decode 0b0000_0000_1110_1110 = .ok .ret ∧
    decode 0b0001_0000_1110_0000 = .ok (.jp 0x0E0) ∧ decode 0b0010_1010_1011_1100 = .ok (.call 0xABC) := by
  decide

/-- Families 3 to 7 and 9; `5AB0` and `9AB0` are vectors of section 2. -/
theorem test_decode_skips_and_immediates :
    decode 0b0011_1010_0100_0010 = .ok (.seI 10 0x42) ∧ decode 0b0100_1010_0100_0010 = .ok (.sneI 10 0x42) ∧
    decode 0b0101_1010_1011_0000 = .ok (.seR 10 11) ∧ decode 0b0110_1111_1110_1010 = .ok (.ldI 15 0xEA) ∧
    decode 0b0111_0000_1111_1111 = .ok (.addI 0 0xFF) ∧ decode 0b1001_1010_1011_0000 = .ok (.sneR 10 11) := by
  decide

/-- Family 8; `8AB6` and `8ABE` are vectors of section 2. -/
theorem test_decode_family8 :
    decode 0b1000_1010_1011_0000 = .ok (.ldR 10 11) ∧ decode 0b1000_1010_1011_0001 = .ok (.or 10 11) ∧
    decode 0b1000_1010_1011_0010 = .ok (.and 10 11) ∧ decode 0b1000_1010_1011_0011 = .ok (.xor 10 11) ∧
    decode 0b1000_1010_1011_0100 = .ok (.addR 10 11) ∧ decode 0b1000_1010_1011_0101 = .ok (.sub 10 11) ∧
    decode 0b1000_1010_1011_0110 = .ok (.shr 10 11) ∧ decode 0b1000_1010_1011_0111 = .ok (.subn 10 11) ∧
    decode 0b1000_1010_1011_1110 = .ok (.shl 10 11) := by
  decide

/-- Families A to E; `D125`, `E59E` and `E5A1` are vectors of section 2. -/
theorem test_decode_index_display_keys :
    decode 0b1010_0011_0000_0000 = .ok (.ldIdx 0x300) ∧ decode 0b1011_0011_0000_0000 = .ok (.jpOff 3 0x300) ∧
    decode 0b1100_0001_0000_1111 = .ok (.rnd 1 0x0F) ∧ decode 0b1101_0001_0010_0101 = .ok (.drw 1 2 5) ∧
    decode 0b1110_0101_1001_1110 = .ok (.skp 5) ∧ decode 0b1110_0101_1010_0001 = .ok (.sknp 5) := by
  decide

/-- Family F; `F50A`, `F51E` and `F565` are vectors of section 2. -/
theorem test_decode_familyF :
    decode 0b1111_0101_0000_0111 = .ok (.ldFromDt 5) ∧ decode 0b1111_0101_0000_1010 = .ok (.waitkey 5) ∧
    decode 0b1111_0101_0001_0101 = .ok (.ldDt 5) ∧ decode 0b1111_0101_0001_1000 = .ok (.ldSt 5) ∧
    decode 0b1111_0101_0001_1110 = .ok (.addIdx 5) ∧ decode 0b1111_0101_0010_1001 = .ok (.font 5) ∧
    decode 0b1111_0101_0011_0011 = .ok (.bcd 5) ∧ decode 0b1111_0101_0101_0101 = .ok (.stm 5) ∧
    decode 0b1111_0101_0110_0101 = .ok (.ldm 5) := by
  decide

/-- The opcodes section 2 marks `Illegal`. -/
theorem test_decode_illegal :
    [0x0000, 0x00E1, 0x0123, 0x5AB1, 0x9ABF, 0x8AB8, 0xE59F, 0xF500, 0xFFFF].all
      (fun op : Word => decide (decode op = .error (.illegal op))) = true := by
  decide

/-- The encoder on the words above, and bytes high first (R63). -/
theorem test_encode :
    encode (.drw 1 2 5) = 0xD125 ∧ encode (.shr 10 11) = 0x8AB6 ∧ encode (.jpOff 3 0x300) = 0xB300 ∧
    encode (.ldm 5) = 0xF565 ∧ encodeBytes (.call 0xABC) = [0x2A, 0xBC] := by
  decide

theorem test_decodeTableWord :
    decodeTableWord 16 0xD125 = some (.drw 1 2 5) ∧ decodeTableWord 16 0x0000 = none ∧
    decodeBytes [0x60] = .error .truncated := by
  decide

/-! ### From reset -/

/-- P6 (b): the first step after a reset with nothing placed raises UnrecognizedOpcode. -/
theorem test_reset_first_step :
    (match step State.reset with
      | .next t => decide (t.mode = .faulted ∧ t.err = some ⟨.unrecognizedOpcode, 0x0000, 0x200⟩ ∧ t.pc = 0x200)
      | .fault _ => false
      | .refused _ => false) = true := by
  decide

/-- A1: an instruction placed with `withFetchWord` is the first one to run after reset. -/
theorem test_reset_withFetchWord : after State.reset 0x6FEA (fun t => (t.getV 15, t.pc)) = some (0xEA, 0x202) := by
  decide

/-! ### Control transfer (section 3) -/

/-- T1, T2. -/
theorem test_jp : after base 0x1ABC (·.pc) = some 0xABC ∧ after base 0x1201 (·.pc) = some 0x201 := by decide

/-- T4: the sixteenth entry. -/
theorem test_call_last :
    after { base with sp := 15 } 0x2300 (fun t => (t.stack[15], t.sp, t.pc)) = some (0x202, 16, 0x300) := by
  decide

/-- T5. -/
theorem test_call_overflow :
    after { base with sp := 16, dt := 9 } 0x2300 (fun t => (t.pc, t.mode, t.err, t.sp, t.dt)) =
      some (0x200, .faulted, some ⟨.stackOverflow, 0x2300, 0x200⟩, 16, 9) := by
  decide

/-- T6. -/
theorem test_ret :
    after { base with sp := 2, stack := (base.stack.set 0 0x206).set 1 0xABC } 0x00EE (fun t => (t.pc, t.sp)) =
      some (0xABC, 1) := by
  decide

/-- T7. -/
theorem test_ret_underflow :
    after base 0x00EE (fun t => (t.pc, t.mode, t.err)) =
      some (0x200, .faulted, some ⟨.stackUnderflow, 0x00EE, 0x200⟩) := by
  decide

/-- T8, T9. -/
theorem test_jpOff_quirk :
    after (withV [(0, 0x04), (3, 0x10)] base) 0xB300 (·.pc) = some 0x304 ∧
    after (withV [(0, 0x04), (3, 0x10)] (quirky false true false)) 0xB300 (·.pc) = some 0x310 := by
  decide

/-- T10. -/
theorem test_jpOff_above_memory : after (withV [(0, 0xFF)] base) 0xBFFF (·.pc) = some 0x10FE := by decide

/-- T11, T12. -/
theorem test_seI :
    after (withV [(10, 0x42)] base) 0x3A42 (·.pc) = some 0x204 ∧
    after (withV [(10, 0x43)] base) 0x3A42 (·.pc) = some 0x202 := by
  decide

/-- T13, T14. -/
theorem test_sneI :
    after (withV [(10, 0x42)] base) 0x4A42 (·.pc) = some 0x202 ∧
    after (withV [(10, 0x43)] base) 0x4A42 (·.pc) = some 0x204 := by
  decide

/-- T15, T16. -/
theorem test_seR :
    after (withV [(1, 7), (2, 7)] base) 0x5120 (·.pc) = some 0x204 ∧
    after (withV [(1, 7), (2, 8)] base) 0x5120 (·.pc) = some 0x202 := by
  decide

/-- T18, T20. -/
theorem test_sneR :
    after (withV [(1, 7), (2, 8)] base) 0x9120 (·.pc) = some 0x204 ∧
    after (withV [(10, 9)] base) 0x9AA0 (·.pc) = some 0x202 := by
  decide

/-- T21: the skip at the top of the program counter's range. -/
theorem test_skip_wraps : after { base with pc := 0xFFFE } 0x3000 (·.pc) = some 0x0002 := by decide

/-- T22: the second byte comes from address 0. -/
theorem test_fetch_wraps :
    after { base with pc := 0x0FFF } 0x6012 (fun t => (t.getV 0, t.pc)) = some (0x12, 0x1001) := by
  decide

/-! ### Loads, arithmetic, logic, shifts, random (section 4) -/

/-- A3, A4. -/
theorem test_addI :
    after (withV [(0, 0xFF), (15, 7)] base) 0x7001 (fun t => (t.getV 0, t.getV 15)) = some (0x00, 0x07) ∧
    after (withV [(15, 0xFF)] base) 0x7F02 (fun t => t.getV 15) = some 0x01 := by
  decide

/-- A5. -/
theorem test_ldR : after (withV [(2, 0x33)] base) 0x8120 (fun t => t.getV 1) = some 0x33 := by decide

/-- A6. -/
theorem test_or :
    after (withV [(1, 0x0F), (2, 0xF0), (15, 9)] base) 0x8121 (fun t => (t.getV 1, t.getV 15)) = some (0xFF, 9) := by
  decide

/-- A7. -/
theorem test_and :
    after (withV [(1, 0x3C), (2, 0x0F), (15, 9)] base) 0x8122 (fun t => (t.getV 1, t.getV 15)) = some (0x0C, 9) := by
  decide

/-- A8, A9. -/
theorem test_xor :
    after (withV [(1, 0xFF), (2, 0x0F), (15, 9)] base) 0x8123 (fun t => (t.getV 1, t.getV 15)) = some (0xF0, 9) ∧
    after (withV [(1, 0xA5)] base) 0x8113 (fun t => t.getV 1) = some 0x00 := by
  decide

/-- A10, A13. -/
theorem test_addR :
    after (withV [(1, 0xC8), (2, 0x64)] base) 0x8124 (fun t => (t.getV 1, t.getV 15)) = some (0x2C, 1) ∧
    after (withV [(1, 0xFF), (2, 0xFF)] base) 0x8124 (fun t => (t.getV 1, t.getV 15)) = some (0xFE, 1) := by
  decide

/-- A15, A16: V15 as destination and as source. -/
theorem test_addR_v15 :
    after (withV [(15, 0xF0), (1, 0x20)] base) 0x8F14 (fun t => t.getV 15) = some 0x10 ∧
    after (withV [(1, 0x10), (15, 5)] base) 0x81F4 (fun t => (t.getV 1, t.getV 15)) = some (0x15, 0) := by
  decide

/-- A18, A19. -/
theorem test_sub :
    after (withV [(1, 3), (2, 10), (15, 1)] base) 0x8125 (fun t => (t.getV 1, t.getV 15)) = some (0, 0) ∧
    after (withV [(1, 7), (2, 7), (15, 1)] base) 0x8125 (fun t => (t.getV 1, t.getV 15)) = some (0, 0) := by
  decide

/-- A20. -/
theorem test_sub_v15 : after (withV [(15, 9), (1, 4)] base) 0x8F15 (fun t => t.getV 15) = some 5 := by decide

/-- A22, A24. -/
theorem test_subn :
    after (withV [(1, 3), (2, 10)] base) 0x8127 (fun t => (t.getV 1, t.getV 15)) = some (7, 1) ∧
    after (withV [(1, 5), (2, 5)] base) 0x8127 (fun t => (t.getV 1, t.getV 15)) = some (0, 1) := by
  decide

/-- A25. -/
theorem test_subn_v15 : after (withV [(15, 3), (1, 10)] base) 0x8F17 (fun t => t.getV 15) = some 7 := by decide

/-- A26, A28. -/
theorem test_shr_quirk :
    after (withV [(1, 3), (2, 4)] (quirky true false false)) 0x8126 (fun t => (t.getV 1, t.getV 15)) = some (1, 1) ∧
    after (withV [(1, 3), (2, 5)] base) 0x8126 (fun t => (t.getV 1, t.getV 15)) = some (2, 1) := by
  decide

/-- A29, A30. -/
theorem test_shr_v15 :
    after (withV [(2, 6), (15, 3)] base) 0x8F26 (fun t => t.getV 15) = some 0 ∧
    after (withV [(2, 6), (15, 3)] (quirky true false false)) 0x8F26 (fun t => t.getV 15) = some 1 := by
  decide

/-- A32, A33. -/
theorem test_shl_quirk :
    after (withV [(1, 0x81), (2, 0x40)] (quirky true false false)) 0x812E (fun t => (t.getV 1, t.getV 15)) =
      some (2, 1) ∧
    after (withV [(1, 0x81), (2, 0x40)] base) 0x812E (fun t => (t.getV 1, t.getV 15)) = some (0x80, 0) := by
  decide

/-- A35. -/
theorem test_shl_v15 : after (withV [(15, 0xC0)] base) 0x8FFE (fun t => t.getV 15) = some 1 := by decide

/-- A37: with `nn = 0` the result is 0 whatever is drawn, and a draw is taken. -/
theorem test_rnd_zero_mask : after (withV [(1, 0x55)] base) 0xC100 (fun t => t.draws) = some 1 := by decide

/-- A39. -/
theorem test_illegal_is_precise :
    after (withV [(1, 1), (2, 2)] base) 0x8128 (fun t => (t.pc, t.mode, t.err, t.getV 1)) =
      some (0x200, .faulted, some ⟨.unrecognizedOpcode, 0x8128, 0x200⟩, 1) := by
  decide

/-! ### Index and memory (section 5) -/

/-- M1. -/
theorem test_ldIdx : after { base with i := 0xFFFF } 0xA300 (·.i) = some 0x300 := by decide

/-- M4, M5. -/
theorem test_addIdx_boundary :
    after { withV [(2, 1)] base with i := 0xFFF } 0xF21E (fun t => (t.i, t.getV 15)) = some (0x1000, 1) ∧
    after { withV [(2, 0), (15, 1)] base with i := 0xFFF } 0xF21E (fun t => (t.i, t.getV 15)) = some (0xFFF, 0) := by
  decide

/-- M7, M8. -/
theorem test_addIdx_wraps :
    after { withV [(2, 2)] base with i := 0xFFFF } 0xF21E (fun t => (t.i, t.getV 15)) = some (0x0001, 1) ∧
    after { withV [(15, 0x10)] base with i := 0x100 } 0xFF1E (fun t => (t.i, t.getV 15)) = some (0x110, 0) := by
  decide

/-- M10, M12. -/
theorem test_font :
    after (withV [(0, 0x0F)] base) 0xF029 (·.i) = some 0x09B ∧
    after (withV [(0, 0xFF)] base) 0xF029 (·.i) = some 0x54B := by
  decide

/-- M13. -/
theorem test_bcd :
    after { withV [(0, 0xEA)] base with i := 0x300 } 0xF033
      (fun t => (t.mem.read 0x300, t.mem.read 0x301, t.mem.read 0x302, t.i)) = some (2, 3, 4, 0x300) := by
  decide

/-- M15. -/
theorem test_bcd_wraps :
    after { withV [(0, 0xFF)] base with i := 0xFFE } 0xF033
      (fun t => (t.mem.read 0xFFE, t.mem.read 0xFFF, t.mem.read 0x000)) = some (2, 5, 5) := by
  decide

/-- M16, M17. -/
theorem test_stm :
    after { withV [(0, 2), (1, 3), (2, 4), (3, 5)] base with i := 0x300 } 0xF255
      (fun t => (t.mem.readList 0x300 4, t.i)) = some ([2, 3, 4, 0], 0x303) ∧
    after { withV [(0, 2), (1, 3), (2, 4), (3, 5)] (quirky false false true) with i := 0x300 } 0xF255 (·.i) =
      some 0x300 := by
  decide

/-- M19. -/
theorem test_stm_wraps :
    after { withV [(0, 0x11), (1, 0x22)] base with i := 0x1FFF } 0xF155
      (fun t => (t.mem.read 0xFFF, t.mem.read 0x000, t.i)) = some (0x11, 0x22, 0x2001) := by
  decide

/-- M20. -/
theorem test_ldm :
    after { withMem 0x300 [2, 3, 4, 5] (withV [(3, 0x99)] base) with i := 0x300 } 0xF265
      (fun t => (t.getV 0, t.getV 1, t.getV 2, t.getV 3, t.i)) = some (2, 3, 4, 0x99, 0x303) := by
  decide

/-- M22. -/
theorem test_ldm_wraps :
    after { withMem 0xFFF [0xAA, 0xBB] base with i := 0xFFF } 0xF165 (fun t => (t.getV 0, t.getV 1, t.i)) =
      some (0xAA, 0xBB, 0x1001) := by
  decide

/-- M23: a stored byte over the next instruction is fetched. -/
theorem test_self_modifying :
    after { withV [(0, 0x12)] base with i := 0x202 } 0xF055 (fun t => (t.fetch.extractLsb' 8 8, t.i)) =
      some (0x12, 0x203) := by
  decide

/-! ### Display (section 6); a display of 16 by 8 where the vector's own size does not matter -/

/-- G1. -/
theorem test_drw :
    after { withMem 0x300 [0xF0, 0x90] (withV [(1, 10), (2, 5)] (small 16 8 [])) with i := 0x300 } 0xD122
      (fun t => (decide (t.fb = gridOf 16 8 [(10, 5), (11, 5), (12, 5), (13, 5), (10, 6), (13, 6)]), t.getV 15,
        t.redraw)) = some (true, 0, true) := by
  decide

/-- G3: the collision flag. -/
theorem test_drw_collision :
    after { withMem 0x300 [0xF0] (withV [(1, 10), (2, 5)] (small 16 8 [(13, 5), (14, 5)])) with i := 0x300 } 0xD121
      (fun t => (decide (t.fb = gridOf 16 8 [(10, 5), (11, 5), (12, 5), (14, 5)]), t.getV 15)) = some (true, 1) := by
  decide

/-- G5: the coordinates reduce modulo the display's size, here 64 by 32. -/
theorem test_drw_wraps :
    after { withMem 0x300 [0x80] (withV [(1, 70), (2, 37)] base) with i := 0x300 } 0xD121
      (fun t => (t.fb.pixel 6 5, t.getV 15)) = some (true, 0) := by
  decide

/-- G9: the sprite is placed by the old V15. -/
theorem test_drw_v15 :
    after { withMem 0x300 [0xC0] (withV [(15, 3), (1, 2)] (small 16 8 [])) with i := 0x300 } 0xDF11
      (fun t => (decide (t.fb = gridOf 16 8 [(3, 2), (4, 2)]), t.getV 15)) = some (true, 0) := by
  decide

/-- G6: no rows. -/
theorem test_drw_no_rows :
    after (withV [(1, 10), (2, 5), (15, 7)] (small 16 8 [(10, 5)])) 0xD120
      (fun t => (t.fb.pixel 10 5, t.getV 15, t.redraw)) = some (true, 0, true) := by
  decide

/-- G12. -/
theorem test_cls :
    after (withV [(15, 5)] (small 16 8 [(0, 0), (15, 7)])) 0x00E0
      (fun t => (decide (t.fb = gridOf 16 8 []), t.getV 15, t.redraw)) = some (true, 5, true) := by
  decide

/-! ### Keypad, timers, the tick (section 7) -/

/-- K1, K3. -/
theorem test_skp :
    after (withKey 5 (withV [(0, 0x05)] base)) 0xE09E (·.pc) = some 0x204 ∧
    after (withKey 5 (withV [(0, 0x15)] base)) 0xE09E (·.pc) = some 0x202 := by
  decide

/-- K5, K6. -/
theorem test_sknp :
    after (withKey 5 (withV [(0, 0x05)] base)) 0xE0A1 (·.pc) = some 0x202 ∧
    after (withKey 5 (withV [(0, 0x15)] base)) 0xE0A1 (·.pc) = some 0x204 := by
  decide

/-- K8. -/
theorem test_ldFromDt : after { base with dt := 9 } 0xF107 (fun t => (t.getV 1, t.dt)) = some (9, 8) := by decide

/-- K10, K12. -/
theorem test_ldDt :
    after (withV [(1, 0x3C)] base) 0xF115 (·.dt) = some 0x3B ∧
    after { withV [(1, 0)] base with dt := 0x50 } 0xF115 (·.dt) = some 0 := by
  decide

/-- K13. -/
theorem test_ldSt : after (withV [(2, 2)] base) 0xF218 (·.st) = some 1 := by decide

/-- K14: a held key does not end the wait. -/
theorem test_waitkey :
    after (withKey 3 { base with dt := 5, st := 1 }) 0xF30A (fun t => (t.mode, t.pc, t.dt, t.st, t.getV 3)) =
      some (.waitingForKey 3, 0x202, 4, 0, 0) := by
  decide

/-- K15, K16: every completed cycle ticks; an abandoned one does not. -/
theorem test_tick :
    after { base with dt := 0xFF, st := 1 } 0x6000 (fun t => (t.dt, t.st)) = some (0xFE, 0) ∧
    after { base with dt := 5 } 0xF000 (fun t => (t.dt, t.pc)) = some (5, 0x200) := by
  decide

/-! ### The host's transactions (section 7, W1 to W5) -/

/-- The state after K14. -/
def waiting : State := withKey 3 { base with mode := .waitingForKey 3, pc := 0x202, dt := 4 }

/-- W1, W2: neither a step nor a release ends the wait. -/
theorem test_wait_holds :
    afterHost waiting .step (fun t => (t.mode, t.pc, t.dt)) = some (.waitingForKey 3, 0x202, 4) ∧
    afterHost waiting (.release 3) (fun t => (t.mode, t.keys[3])) = some (.waitingForKey 3, false) := by
  decide

/-- W3: a press ends the wait without a tick. -/
theorem test_press_ends_wait :
    afterHost waiting (.press 11) (fun t => (t.keys[11], t.getV 3, t.mode, t.pc, t.dt)) =
      some (true, 11, .running, 0x202, 4) := by
  decide

/-- W4: quit, and a press in `Halted`. -/
theorem test_quit :
    afterHost waiting .quit (fun t => (t.mode, t.getV 3)) = some (.halted, 0) ∧
    afterHost { waiting with mode := .halted } (.press 5) (fun t => (t.mode, t.keys[5], t.getV 3)) =
      some (.halted, true, 0) := by
  decide

/-- W5: a load resets, and the keys stay. -/
theorem test_load :
    afterHost waiting (.load [0x12, 0x00]) (fun t => (t.mode, t.pc, t.dt, t.keys[3], t.fetch)) =
      some (.running, 0x200, 0, true, 0x1200) := by
  decide

/-- P6 (b), step 2: in `Faulted` a step changes nothing and returns the same error. -/
theorem test_step_faulted :
    afterHost { base with mode := .faulted, err := some ⟨.unrecognizedOpcode, 0x0000, 0x200⟩ } .step
      (fun t => (t.mode, t.pc, t.reply)) =
      some (.faulted, 0x200, .report false (some ⟨.unrecognizedOpcode, 0x0000, 0x200⟩)) := by
  decide

/-- R264. -/
theorem test_dumpState :
    afterHost (withV [(7, 0x77)] { waiting with i := 0x345 }) .dumpState (fun t =>
      match t.reply with
      | .snapshot d => decide (d.pc = 0x202 ∧ d.i = 0x345 ∧ d.v[7] = 0x77 ∧ d.dt = 4 ∧ d.st = 0)
      | .nothing | .report _ _ => false) = some true := by
  decide

/-! ### Memory in its canonical form -/

theorem test_memory_canonical :
    Memory.write [] 0x300 5 = [(0x300, 5)] ∧ (Memory.write [] 0x300 5).write 0x1300 0 = [] ∧
    Memory.write [] 0x050 0xF0 = [] ∧ Memory.wf [(0x301, 5), (0x300, 5)] = false ∧ Memory.wf [(0x300, 0)] = false := by
  decide

/-! ### Witnesses: for every statement with hypotheses, a state and operands that meet them, at the ends of each clause's
range -/

/-- A running state about to run the opcode, with no transaction pending. -/
def placed (op : Nat) (s : State) : State := s.withFetchWord 16 op

theorem test_witness_DecodeEncodeRoundTrip :
    (Instr.drw 15 15 15).wellFormed = true ∧ (Instr.drw 0 0 0).wellFormed = true ∧
    (Instr.jpOff 15 0xFFF).wellFormed = true ∧ (Instr.jpOff 0 0x000).wellFormed = true := by
  decide

theorem test_witness_EncodeDecodeRoundTrip :
    decode 0x00E0 = .ok .cls ∧ decode 0xBFFF = .ok (.jpOff 15 0xFFF) ∧ decode 0xFF65 = .ok (.ldm 15) := by
  decide

theorem test_witness_StepRunsTheDecodedInstruction :
    ((placed 0x6FEA base).StepsThen [] ∧ (placed 0x6FEA base).mode = .running ∧
      decode (placed 0x6FEA base).fetch = .ok (.ldI 15 0xEA)) ∧
    (State.StepsThen { placed 0x2300 base with host := [.step, .quit] } [.quit] ∧
      decode (placed 0x2300 { base with sp := 16 }).fetch = .ok (.call 0x300)) :=
  ⟨⟨.inl ⟨rfl, rfl⟩, rfl, by decide⟩, .inr rfl, by decide⟩

theorem test_witness_StepOutsideRunningChangesNothing :
    waiting.StepsThen [] ∧ waiting.mode ≠ .running ∧
    State.StepsThen { base with mode := .halted, host := [.step] } [] ∧
    State.StepsThen { base with mode := .faulted, err := some ⟨.stackOverflow, 0x2300, 0x200⟩ } [] :=
  ⟨.inl ⟨rfl, rfl⟩, by decide, .inr rfl, .inl ⟨rfl, rfl⟩⟩

theorem test_witness_TimersTickOncePerCycle :
    ((placed 0xF115 base).AboutToRun (.ldDt 1) ∧ ∃ t : State, step (placed 0xF115 base) = .next t ∧ t.mode ≠ .faulted) ∧
    ((placed 0xF118 base).AboutToRun (.ldSt 1) ∧ ∃ t : State, step (placed 0xF118 base) = .next t ∧ t.mode ≠ .faulted) ∧
    ((placed 0x6000 base).AboutToRun (.ldI 0 0) ∧ ∃ t : State, step (placed 0x6000 base) = .next t ∧ t.mode ≠ .faulted) :=
  ⟨⟨⟨rfl, rfl, by decide⟩, _, rfl, by decide⟩, ⟨⟨rfl, rfl, by decide⟩, _, rfl, by decide⟩,
    ⟨rfl, rfl, by decide⟩, _, rfl, by decide⟩

/-- Each of the three causes, and a running step with none. -/
theorem test_witness_FatalErrorsArePrecise :
    (ErrKind.unrecognizedOpcode.CausedAt (placed 0x5121 base) ∧ ∃ t : State, step (placed 0x5121 base) = .next t) ∧
    (ErrKind.stackOverflow.CausedAt (placed 0x2300 { base with sp := 16 }) ∧
      ∃ t : State, step (placed 0x2300 { base with sp := 16 }) = .next t) ∧
    (ErrKind.stackUnderflow.CausedAt (placed 0x00EE base) ∧ ∃ t : State, step (placed 0x00EE base) = .next t) ∧
    ∃ t : State, step (placed 0x2300 { base with sp := 15 }) = .next t ∧ t.mode = .running :=
  ⟨⟨by unfold ErrKind.CausedAt; decide, _, rfl⟩, ⟨⟨by decide, 0x300, by decide⟩, _, rfl⟩,
    ⟨⟨by decide, by decide⟩, _, rfl⟩, _, rfl, by decide⟩

/-- Each transition of `MODE`, the image's length at both sides of its limit among them. -/
theorem test_witness_ModeTransitions :
    (∃ t : State, step { waiting with host := [.load (List.replicate 3584 0)] } = .next t) ∧
    (∃ t : State, step { waiting with host := [.load (List.replicate 3585 0)] } = .next t) ∧
    (∃ t : State, step (placed 0xF30A base) = .next t ∧ t.mode = .waitingForKey 3) ∧
    (∃ t : State, step (placed 0x0000 base) = .next t ∧ t.mode = .faulted) ∧
    (∃ t : State, step { waiting with host := [.press 0] } = .next t ∧ t.mode = .running) ∧
    (∃ t : State, step { waiting with host := [.quit] } = .next t ∧ t.mode = .halted) ∧
    (∃ t : State, step { base with host := [.quit] } = .next t ∧ t.mode = .halted) ∧
    ∃ t : State, step { base with mode := .faulted, host := [.quit] } = .next t ∧ t.mode = .faulted :=
  ⟨⟨_, rfl⟩, ⟨_, rfl⟩, ⟨_, rfl, by decide⟩, ⟨_, rfl, by decide⟩, ⟨_, rfl, by decide⟩, ⟨_, rfl, by decide⟩,
    ⟨_, rfl, by decide⟩, _, rfl, by decide⟩

theorem test_witness_HaltedIsTerminal :
    (∃ t : State, step { base with mode := .halted } = .next t) ∧
    (∃ t : State, step { base with mode := .halted, host := [.load []] } = .next t ∧ t.mode = .running) ∧
    State.host { base with mode := .halted, host := [.dumpState] } = [.dumpState] ∧
    ∃ t : State, exec (.waitkey 3) base = .next t ∧ base.mode ≠ .halted :=
  ⟨⟨_, rfl⟩, ⟨_, rfl, by decide⟩, rfl, _, rfl, by decide⟩

/-- For DumpStateShowsAndChangesNothing, QuitHaltsOnlyAHealthyCore, PressEndsAKeyWait (both clauses) and
ReleaseNeverEndsAWait. -/
theorem test_witness_host_transactions :
    State.host { base with host := [.dumpState, .step] } = .dumpState :: [.step] ∧
    State.host { base with mode := .faulted, host := [.quit] } = .quit :: [] ∧
    State.host { waiting with host := [.press 15] } = .press 15 :: [] ∧ waiting.mode = .waitingForKey 3 ∧
    (∀ x : Reg, base.mode ≠ .waitingForKey x) ∧
    State.host { waiting with host := [.release 3, .step] } = .release 3 :: [.step] :=
  ⟨rfl, rfl, rfl, rfl, by decide, rfl⟩

theorem test_witness_LoadResetsTheCore :
    (List.replicate 3584 (0x12 : Byte)).length ≤ 3584 ∧ 3584 < (List.replicate 3585 (0x12 : Byte)).length ∧
    State.host { base with host := [.load (List.replicate 3584 0x12)] } = .load (List.replicate 3584 0x12) :: [] :=
  ⟨List.length_replicate.le, List.length_replicate.ge, rfl⟩

theorem test_witness_ExecutionBeginsAtTheImage :
    State.host { base with host := [.load (0x12 :: 0x00 :: List.replicate 3582 0xFF)] } =
      .load (0x12 :: 0x00 :: List.replicate 3582 0xFF) :: [] ∧
    (List.replicate 3582 (0xFF : Byte)).length ≤ 3582 :=
  ⟨rfl, List.length_replicate.le⟩

theorem test_witness_JumpResults :
    (Instr.jpOff 0xB 0xBFF).wellFormed = true ∧ (quirky false true false).params.qJumpVx = true ∧
    base.params.qJumpVx = false := by
  decide

/-- Both sides of both limits, and a state of each that an instruction other than the two leaves alone. -/
theorem test_witness_StackOperations :
    (State.sp { base with sp := 15 }).val < 16 ∧ State.sp { base with sp := 16 } = 16 ∧
    0 < (State.sp { base with sp := 1 }).val ∧ State.sp { base with sp := 0 } = 0 ∧
    (Instr.waitkey 3).canRaise = false ∧ ∃ t : State, exec (.waitkey 3) { base with sp := 16 } = .next t :=
  ⟨by decide, by decide, by decide, by decide, by decide, _, rfl⟩

theorem test_witness_CallAndReturnResults :
    (State.sp { base with sp := 15 }).val < 16 ∧ (State.sp { base with sp := 0 }).val < 16 ∧
    0 < (State.sp { base with sp := 16 }).val ∧ 0 < (State.sp { base with sp := 1 }).val := by
  decide

theorem test_witness_ReturnUndoesTheCall :
    ∃ t u : State, (State.sp { base with sp := 15 }).val < 16 ∧ exec (.call 0x300) { base with sp := 15 } = .next t ∧
      u.stack = t.stack ∧ u.sp = t.sp ∧ u.pc ≠ t.pc :=
  ⟨_, { base with sp := 16, stack := base.stack.set 15 0x200, pc := 0x123 }, by decide, rfl, by decide, by decide,
    by decide⟩

/-- For the clauses `x ≠ 15` of AddWithCarryResult, SubtractionResults and ShiftResults: both sides, and both quirk
settings. -/
theorem test_witness_flag_clauses :
    (14 : Reg) ≠ 15 ∧ ¬(15 : Reg) ≠ 15 ∧ (quirky true false false).params.qShiftVxOnly = true ∧
    base.params.qShiftVxOnly = false := by
  decide

/-- For DecimalDigitsResult, StoreRegistersResult and MemoryReadsWhatWasWritten. -/
theorem test_witness_memory_in_canonical_form :
    base.mem.wf = true ∧ (withMem 0xFFF [0xAA, 0xBB] base).mem.wf = true ∧ State.reset.mem.wf = true := by
  decide

/-- The store wraps at the end of memory; the load starts from other registers. -/
theorem test_witness_LoadRestoresWhatWasStored :
    ∃ t u r : State, ({ withV [(0, 0x11), (1, 0x22)] base with i := 0xFFF } : State).mem.wf = true ∧
      exec (.stm 1) { withV [(0, 0x11), (1, 0x22)] base with i := 0xFFF } = .next t ∧ u.mem = t.mem ∧ u.i = 0xFFF ∧
      exec (.ldm 1) u = .next r ∧ (1 : Reg) ≤ 1 :=
  ⟨_, { withMem 0xFFF [0x11, 0x22] base with i := 0xFFF }, _, by decide, rfl, by decide, by decide, rfl, by decide⟩

theorem test_witness_StoredBytesAreFetched :
    ∃ t u : State, ({ withV [(0, 0x11), (1, 0x22)] base with i := 0xFFF } : State).mem.wf = true ∧
      exec (.stm 1) { withV [(0, 0x11), (1, 0x22)] base with i := 0xFFF } = .next t ∧ (1 : Reg) ≤ 1 ∧
      (1 : Reg).val = (0 : Reg).val + 1 ∧ u.mem = t.mem ∧ u.pc.toNat % 4096 = (0xFFF + 0) % 4096 :=
  ⟨_, { withMem 0xFFF [0x11, 0x22] base with pc := 0x1FFF }, by decide, rfl, by decide, by decide, by decide, by decide⟩

theorem test_witness_EqualMemoriesAreEqualData :
    Memory.wf [(0x300, 5), (0xFFF, 1)] = true ∧
    Memory.wf ((Memory.write [] 0xFFF 1).write 0x1300 5) = true ∧
    ∀ a < 4096, Memory.read [(0x300, 5), (0xFFF, 1)] a = ((Memory.write [] 0xFFF 1).write 0x1300 5).read a :=
  ⟨by decide, by decide, fun _ _ => rfl⟩

/-- For ClearResult and DrawChangesThePixels: a grid of the display's size, and the smallest there is. -/
theorem test_witness_grid_of_display_size :
    base.fb.shaped base.params.displayW base.params.displayH = true ∧
    (small 1 1 [(0, 0)]).fb.shaped 1 1 = true := by
  decide

/-- The smallest display the statement speaks of, and the tallest sprite. -/
theorem test_witness_DrawReportsCollision :
    15 < 16 ∧ 8 ≤ (small 8 15 [(7, 14)]).params.displayW ∧ 15 ≤ (small 8 15 [(7, 14)]).params.displayH ∧
    ∃ t : State, exec (.drw 1 2 15) (small 8 15 [(7, 14)]) = .next t :=
  ⟨by decide, by decide, by decide, _, rfl⟩

/-- A display of one pixel, on which eight 1 bits fall. -/
theorem test_witness_DrawReportsCollisionOnAnyDisplay :
    0 < (small 1 1 []).params.displayW ∧ 0 < (small 1 1 []).params.displayH ∧
    (small 1 1 []).fb.shaped (small 1 1 []).params.displayW (small 1 1 []).params.displayH = true ∧
    (State.spriteBitsOn { withMem 0x300 [0xFF] (small 1 1 []) with i := 0x300 } 1 2 1 0 0) = 8 := by
  decide

/-- Two draws of one row of two pixels through different registers. -/
theorem test_witness_DrawingTwiceRestoresTheGrid :
    ∃ s t u r : State, exec (.drw 1 2 1) s = .next t ∧ u.fb = t.fb ∧ u.params = s.params ∧
      u.getV 3 = s.getV 1 ∧ u.getV 4 = s.getV 2 ∧
      (∀ row < 1, u.mem.read (u.i.toNat + row) = s.mem.read (s.i.toNat + row)) ∧ exec (.drw 3 4 1) u = .next r ∧
      s.fb.shaped s.params.displayW s.params.displayH = true ∧ 0 < s.params.displayW ∧ 0 < s.params.displayH ∧
      ∃ row < 1, ∃ col < 8, (s.mem.read (s.i.toNat + row)).getLsbD (7 - col) = true ∧
        s.fb.pixel (((s.getV 1).toNat + col) % s.params.displayW)
          (((s.getV 2).toNat + row) % s.params.displayH) = false :=
  ⟨{ withMem 0x300 [0xC0] (small 8 2 []) with i := 0x300 }, _,
    { withMem 0x300 [0xC0] (small 8 2 [(0, 0), (1, 0)]) with i := 0x1300 }, _, rfl, by decide, by decide, by decide,
    by decide, by decide, rfl, by decide, by decide, by decide, 0, by decide, 0, by decide, by decide, by decide⟩

/-- For WaitForKeyResult, DelayTimerResults, SoundTimerResult and OnlyDisplayInstructionsRedraw. -/
theorem test_witness_AboutToRun :
    (placed 0xF30A base).AboutToRun (.waitkey 3) ∧ (placed 0xF107 base).AboutToRun (.ldFromDt 1) ∧
    (placed 0xF115 base).AboutToRun (.ldDt 1) ∧ (placed 0xF118 base).AboutToRun (.ldSt 1) ∧
    (placed 0x00E0 base).AboutToRun .cls :=
  ⟨⟨rfl, rfl, by decide⟩, ⟨rfl, rfl, by decide⟩, ⟨rfl, rfl, by decide⟩, ⟨rfl, rfl, by decide⟩, rfl, rfl, by decide⟩

/-- For DelayTimerRule, SoundTimerIsNeverRead and InstructionsWriteOnlyWhatTheTableSays: an instruction that is none of the
exceptions each names. -/
theorem test_witness_instructions_not_excepted :
    (∃ t : State, exec (.ldSt 1) base = .next t) ∧ (∀ x, Instr.ldSt 1 ≠ .ldDt x) ∧ (∀ x, Instr.ldSt 1 ≠ .ldFromDt x) ∧
    (∃ t : State, exec (.ldDt 1) base = .next t) ∧ (∀ x, Instr.ldDt 1 ≠ .ldSt x) ∧
    (∀ x, Instr.ldDt 1 ≠ .bcd x ∧ Instr.ldDt 1 ≠ .stm x) ∧ ∀ x nn, Instr.ldDt 1 ≠ .rnd x nn := by
  refine ⟨⟨_, rfl⟩, ?_, ?_, ⟨_, rfl⟩, ?_, ?_, ?_⟩ <;> intros <;> simp

/-- The flag writers with `x = 15` (the three arithmetic exceptions) and an instruction whose destination is not V15. -/
theorem test_witness_FlagRegisterRule :
    ((Instr.addR 15 1).writesFlag = true ∧ ∃ t : State, exec (.addR 15 1) base = .next t) ∧
    ((Instr.sub 15 1).writesFlag = true ∧ ∃ t : State, exec (.sub 15 1) base = .next t) ∧
    ((Instr.subn 15 1).writesFlag = true ∧ ∃ t : State, exec (.subn 15 1) base = .next t) ∧
    ((Instr.shr 15 1).writesFlag = true ∧ ∃ t : State, exec (.shr 15 1) base = .next t) ∧
    ((Instr.ldm 14).writesFlag = false ∧ 15 ∉ (Instr.ldm 14).dests ∧ 15 ∈ (Instr.ldm 15).dests ∧
      ∃ t : State, exec (.ldm 14) base = .next t) :=
  ⟨⟨by decide, _, rfl⟩, ⟨by decide, _, rfl⟩, ⟨by decide, _, rfl⟩, ⟨by decide, _, rfl⟩, by decide, by decide, by decide,
    _, rfl⟩

theorem test_witness_OnlyDisplayInstructionsRedraw :
    (∃ t : State, (placed 0x00E0 base).AboutToRun .cls ∧ step (placed 0x00E0 base) = .next t) ∧
    (∃ t : State, (placed 0x2300 { base with sp := 16 }).AboutToRun (.call 0x300) ∧
      step (placed 0x2300 { base with sp := 16 }) = .next t) ∧
    (Instr.bcd 1).redraws = false :=
  ⟨⟨_, ⟨rfl, rfl, by decide⟩, rfl⟩, ⟨_, ⟨rfl, rfl, by decide⟩, rfl⟩, rfl⟩

/-- A shift with `x = y`, a `BNNN` with top digit 0, and a block store. -/
theorem test_witness_QuirkDependence :
    ((∃ t : State, exec (.shr 3 3) base = .next t) ∧ ∀ x y : Reg, x ≠ y → Instr.shr 3 3 ≠ .shr x y ∧ Instr.shr 3 3 ≠ .shl x y) ∧
    ((∃ t : State, exec (.jpOff 0 0x0FF) base = .next t) ∧ ∀ (x : Reg) nnn, x ≠ 0 → Instr.jpOff 0 0x0FF ≠ .jpOff x nnn) ∧
    ((∃ t : State, exec (.stm 3) base = .next t) ∧ ∀ x, Instr.addI 3 1 ≠ .stm x ∧ Instr.addI 3 1 ≠ .ldm x) := by
  refine ⟨⟨⟨_, rfl⟩, ?_⟩, ⟨⟨_, rfl⟩, ?_⟩, ⟨_, rfl⟩, ?_⟩
  · rintro x y h
    refine ⟨?_, by simp⟩
    rintro h'
    cases h'
    exact h rfl
  · rintro x nnn h h'
    cases h'
    exact h rfl
  · intro x
    simp

/-- The skip at the top of the range, where `PC` wraps. -/
theorem test_witness_EvenProgramCounterIsKept :
    ∃ t : State, (placed 0x3000 { base with pc := 0xFFFE }).host = [] ∧
      step (placed 0x3000 { base with pc := 0xFFFE }) = .next t ∧ (0xFFFE : Word).toNat % 2 = 0 ∧
      decode (placed 0x3000 { base with pc := 0xFFFE }).fetch = .ok (.seI 0 0) ∧
      (∀ nnn, Instr.seI 0 0 ≠ .jp nnn) ∧ (∀ nnn, Instr.seI 0 0 ≠ .call nnn) ∧
      (∀ x nnn, Instr.seI 0 0 ≠ .jpOff x nnn) ∧ Instr.seI 0 0 ≠ .ret := by
  refine ⟨_, rfl, rfl, by decide, by decide, ?_, ?_, ?_, by decide⟩ <;> intros <;> simp

/-- Also for ParametersNeverChange: a step of a state that meets the invariant, and a faulted state that meets it. -/
theorem test_witness_EveryStepKeepsTheInvariant :
    Inv base ∧ (∃ t : State, step base = .next t ∧ t.mode = .faulted) ∧
    Inv { base with mode := .faulted, err := some ⟨.unrecognizedOpcode, 0x0000, 0x200⟩ } := by
  refine ⟨⟨rfl, by decide, by decide, by decide, fun e h => by cases h⟩, ⟨_, rfl, by decide⟩,
    ⟨rfl, by decide, by decide, by decide, fun e h => ?_⟩⟩
  cases h
  exact ⟨rfl, by decide, by unfold ErrKind.CausedAt; decide⟩

end Sys2Proof.Tests
end

section
/-! SUPPORT. The frame of every instruction, said once: a rule per state operation for `Footprint.Covers`, the footprint of
each instruction, and that executing it stays inside. -/

namespace Sys2Proof.Machine.Footprint.Covers

variable {c : Footprint} {s t : State}

theorem refl (c : Footprint) (s : State) : c.Covers s s :=
  ⟨fun _ _ => rfl, fun _ _ => rfl, fun _ => rfl, fun _ => rfl, fun _ => rfl, fun _ => rfl, fun _ => ⟨rfl, rfl⟩,
    fun _ => rfl, fun _ => rfl, fun _ => rfl, fun _ => rfl, fun _ => rfl, fun _ => rfl, rfl, rfl⟩

theorem setV (h : c.Covers s t) {x : Reg} (hx : x ∈ c.regs) (b : Byte) : c.Covers s (t.setV x b) :=
  { h with regs := fun j hj => (t.getV_setV_ne b fun e : j = x => hj (e ▸ hx)).trans (h.regs j hj) }

theorem setFlag (h : c.Covers s t) (hx : 15 ∈ c.regs) (f : Bool) : c.Covers s (t.setFlag f) := h.setV hx _

/-- `FX65`'s loop writes the first `n` registers. -/
theorem loadRegs (h : c.Covers s t) (m : Memory) (a n : Nat) (hn : ∀ j : Reg, j.val < n → j ∈ c.regs) :
    c.Covers s { t with v := m.loadRegs a n t.v } :=
  { h with
    regs := fun j hj => by
      have hjn : ¬j.val < n := fun hlt => hj (hn j hlt)
      rw [← h.regs j hj]
      exact (m.loadRegs_get a t.v j.val j.isLt n).trans (if_neg hjn) }

/-- Storing bytes changes no address but theirs. -/
theorem storeList (h : c.Covers s t) (a : Nat) (bs : List Byte) (hs : ∀ k < bs.length, (a + k) % 4096 ∈ c.stored) :
    c.Covers s (t.setMem (t.mem.writeList a bs)) :=
  { h with
    mem := fun k hk =>
      (Memory.read_writeList_outside bs t.mem a k fun j hj e => hk (e ▸ hs j hj)).trans (h.mem k hk) }

theorem setI (h : c.Covers s t) (hc : c.i = true) (w : Word) : c.Covers s (t.setI w) := { h with i := by simp [hc] }

theorem setPc (h : c.Covers s t) (hc : c.pc = true) (w : Word) : c.Covers s (t.setPc w) := { h with pc := by simp [hc] }

theorem setDt (h : c.Covers s t) (hc : c.dt = true) (b : Byte) : c.Covers s (t.setDt b) := { h with dt := by simp [hc] }

theorem setSt (h : c.Covers s t) (hc : c.st = true) (b : Byte) : c.Covers s (t.setSt b) := { h with st := by simp [hc] }

theorem setMode (h : c.Covers s t) (hc : c.mode = true) (m : Mode) : c.Covers s (t.setMode m) :=
  { h with mode := by simp [hc] }

theorem setFb (h : c.Covers s t) (hc : c.fb = true) (g : Grid) : c.Covers s (t.setFb g) := { h with fb := by simp [hc] }

theorem requestRedraw (h : c.Covers s t) (hc : c.reply = true) : c.Covers s t.requestRedraw :=
  { h with reply := by simp [hc] }

theorem draw8 (h : c.Covers s t) (hc : c.draws = true) : c.Covers s t.draw8.2 := { h with draws := by simp [hc] }

/-- A call and a return set `PC` and the stack together. -/
theorem setPcStack (h : c.Covers s t) (hp : c.pc = true) (hs : c.stack = true) (w : Word) (entries : Vector Word 16)
    (depth : Fin 17) : c.Covers s { t with pc := w, stack := entries, sp := depth } :=
  { h with pc := by simp [hp], stack := by simp [hs] }

theorem raise (h : c.Covers s t) (hp : c.pc = true) (hm : c.mode = true) (he : c.err = true) (hr : c.reply = true)
    (k : ErrKind) (op : Word) : c.Covers s (t.raise k op) :=
  { h with pc := by simp [hp], mode := by simp [hm], err := by simp [he], reply := by simp [hr] }

theorem skipIf (h : c.Covers s t) (hc : c.pc = true) (b : Bool) : c.Covers s (skipIf b t) :=
  skipIf_eq b t ▸ h.setPc hc _

end Sys2Proof.Machine.Footprint.Covers

namespace Sys2Proof
open Machine

/-- What an instruction executed in `s` may change, by its rule (41_control_flow.md to 45_keypad_timers.md). -/
def Instr.footprint (i : Instr) (s : State) : Footprint :=
  match i with
  | .cls => { fb := true, reply := true }
  | .ret | .call _ => { pc := true, stack := true, mode := true, err := true, reply := true }
  | .jp _ | .jpOff _ _ | .seI _ _ | .sneI _ _ | .seR _ _ | .sneR _ _ | .skp _ | .sknp _ => { pc := true }
  | .ldI x _ | .addI x _ | .ldR x _ | .or x _ | .and x _ | .xor x _ | .ldFromDt x => { regs := [x] }
  | .addR x _ | .sub x _ | .subn x _ | .shr x _ | .shl x _ => { regs := [x, 15] }
  | .rnd x _ => { regs := [x], draws := true }
  | .ldIdx _ | .font _ => { i := true }
  | .addIdx _ => { regs := [15], i := true }
  | .drw _ _ _ => { regs := [15], fb := true, reply := true }
  | .waitkey _ => { mode := true }
  | .ldDt _ => { dt := true }
  | .ldSt _ => { st := true }
  | .bcd _ => { stored := (List.range 3).map fun k => (s.i.toNat + k) % 4096 }
  | .stm x => { i := true, stored := (List.range (x.val + 1)).map fun k => (s.i.toNat + k) % 4096 }
  | .ldm x => { i := true, regs := (List.finRange 16).filter fun j => j ≤ x }

/-- The registers of the footprint are the destinations and, for a flag writer, `V[15]` (10_state.md R23). -/
theorem Instr.footprint_regs (i : Instr) (s : State) :
    (i.footprint s).regs = i.dests ++ if i.writesFlag then [15] else [] := by
  cases i <;> simp [Instr.footprint, Instr.dests, Instr.writesFlag]

/-- Only the two instructions that can raise a fatal error have the call stack in their footprint (10_state.md R31). -/
theorem Instr.footprint_stack (i : Instr) (s : State) : (i.footprint s).stack = i.canRaise := by
  cases i <;> rfl

end Sys2Proof

namespace Sys2Proof.Machine

/-- An instruction changes nothing outside its footprint. -/
theorem exec_covers {i : Instr} {s t : State} (h : exec i s = .next t) : (i.footprint s).Covers s t := by
  have same : (i.footprint s).Covers s s := .refl _ s
  cases i
  case ret =>
    rw [exec, execRet_eq] at h
    injection h with h
    subst h
    split
    · exact same.setPcStack rfl rfl _ _ _
    · exact same.raise rfl rfl rfl rfl _ _
  case call =>
    rw [exec, execCall_eq] at h
    injection h with h
    subst h
    split
    · exact same.setPcStack rfl rfl _ _ _
    · exact same.raise rfl rfl rfl rfl _ _
  all_goals injection h with h; subst h
  case cls => exact (same.setFb rfl _).requestRedraw rfl
  case jp | jpOff => all_goals exact same.setPc rfl _
  case seI | sneI | seR | sneR | skp | sknp => all_goals exact same.skipIf rfl _
  case ldI | addI | ldR | or | and | xor | ldFromDt => all_goals exact same.setV (List.mem_cons_self ..) _
  case addR | sub | subn => all_goals exact (same.setFlag (by simp [Instr.footprint]) _).setV (List.mem_cons_self ..) _
  case shr | shl => all_goals exact (same.setV (List.mem_cons_self ..) _).setFlag (by simp [Instr.footprint]) _
  case rnd => exact (same.draw8 rfl).setV (List.mem_cons_self ..) _
  case ldIdx | font => all_goals exact same.setI rfl _
  case addIdx => exact (same.setI rfl _).setFlag (List.mem_cons_self ..) _
  case drw => exact ((same.setFb rfl _).setFlag (List.mem_cons_self ..) _).requestRedraw rfl
  case waitkey => exact same.setMode rfl _
  case ldDt => exact same.setDt rfl _
  case ldSt => exact same.setSt rfl _
  case bcd => exact same.storeList _ _ fun k hk => List.mem_map.mpr ⟨k, List.mem_range.mpr hk, rfl⟩
  case stm =>
    refine (same.storeList _ _ fun k hk => List.mem_map.mpr ⟨k, List.mem_range.mpr ?_, rfl⟩).setI rfl _
    exact Nat.lt_of_lt_of_le hk (List.length_take_le ..)
  case ldm x =>
    refine (same.loadRegs s.mem _ _ fun j hj => ?_).setI rfl _
    exact List.mem_filter.mpr ⟨List.mem_finRange j, decide_eq_true (Fin.le_def.mpr (Nat.le_of_lt_succ hj))⟩

end Sys2Proof.Machine
end

section
/-! PROOF. O22, the call stack (10_state.md R31). -/

open Sys2Proof Sys2Proof.Machine

/-- Settles O22: the two limits from what a call and a return can do, all other instructions from their footprint. -/
theorem stackOperations : Obligations.StackOperations := by
  refine ⟨fun nnn s h => ?_, fun nnn s h => ?_, fun s h => ?_, fun s h => ?_, fun i s t hi ht => ?_⟩
  · refine ⟨_, execCall_eq nnn s, ?_⟩
    rw [dif_pos h]
    exact ⟨State.take_set_succ s.stack s.sp.val h s.pc, rfl⟩
  · refine ⟨_, execCall_eq nnn s, ?_⟩
    rw [dif_neg (by rw [h]; decide)]
    exact ⟨rfl, rfl, _, rfl, rfl⟩
  · refine ⟨_, execRet_eq s, ?_⟩
    rw [dif_pos h]
    exact ⟨State.take_pred s.stack s.sp.val h s.sp.isLt, rfl⟩
  · refine ⟨_, execRet_eq s, ?_⟩
    rw [dif_neg (by rw [h]; decide)]
    exact ⟨rfl, rfl, _, rfl, rfl⟩
  · exact (exec_covers ht).stack ((i.footprint_stack s).trans hi)

end

section
/-! PROOF. O50 and O51, the two timers (10_state.md R28, R29): one lemma on what an instruction does with other values in
both timers, from which what it leaves in each follows. -/

namespace Sys2Proof
open Machine

/-- What an instruction executed in `s` leaves in `DT`, with `b` in it before: only `FX15` writes it (R28). -/
def Instr.dtAfter (i : Instr) (s : State) (b : Byte) : Byte :=
  match i with
  | .ldDt x => s.getV x
  | _ => b

/-- What an instruction executed in `s` leaves in `ST`, with `b` in it before: only `FX18` writes it (R29). -/
def Instr.stAfter (i : Instr) (s : State) (b : Byte) : Byte :=
  match i with
  | .ldSt x => s.getV x
  | _ => b

theorem Instr.dtAfter_of_ne {i : Instr} (hi : ∀ x, i ≠ .ldDt x) (s : State) (b : Byte) : i.dtAfter s b = b := by
  cases i
  case ldDt x => exact absurd rfl (hi x)
  all_goals rfl

theorem Instr.stAfter_of_ne {i : Instr} (hi : ∀ x, i ≠ .ldSt x) (s : State) (b : Byte) : i.stAfter s b = b := by
  cases i
  case ldSt x => exact absurd rfl (hi x)
  all_goals rfl

end Sys2Proof

namespace Sys2Proof.Machine

theorem skipIf_withTimers (c : Bool) (s : State) (b b' : Byte) :
    skipIf c { s with dt := b, st := b' } = { skipIf c s with dt := b, st := b' } := by
  cases c <;> rfl

/-- With other values in the timers an instruction does the same, and a timer it does not write keeps the other value;
`FX07`, which reads `DT`, only when `DT` is the same. -/
theorem exec_withTimers {i : Instr} {s t : State} (b c : Byte) (hi : (∀ x, i ≠ .ldFromDt x) ∨ b = s.dt)
    (h : exec i s = .next t) :
    exec i { s with dt := b, st := c } = .next { t with dt := i.dtAfter s b, st := i.stAfter s c } := by
  cases i
  case ret => rw [exec, execRet_eq] at h ⊢; injection h with h; subst h; split <;> rfl
  case call => rw [exec, execCall_eq] at h ⊢; injection h with h; subst h; split <;> rfl
  all_goals injection h with h; subst h
  case seI | sneI | seR | sneR | skp | sknp =>
    all_goals exact congrArg _ (skipIf_withTimers ..)
  case ldFromDt x =>
    obtain hx | rfl := hi
    · exact absurd rfl (hx x)
    · rfl
  all_goals rfl

/-- What every instruction leaves in both timers. -/
theorem exec_timers {i : Instr} {s t : State} (h : exec i s = .next t) :
    t.dt = i.dtAfter s s.dt ∧ t.st = i.stAfter s s.st := by
  have h' := h.symm.trans (exec_withTimers s.dt s.st (.inr rfl) h)
  injection h' with h'
  exact ⟨congrArg State.dt h', congrArg State.st h'⟩

end Sys2Proof.Machine

open Sys2Proof Sys2Proof.Machine

/-- Settles O50. -/
theorem delayTimerRule : Obligations.DelayTimerRule := by
  refine ⟨fun s => State.tickTimer_toNat s.dt, fun i s t h hi => ?_, fun _ _ => rfl,
    fun x s => ⟨_, rfl, s.getV_setV_same x s.dt⟩, fun i s t b hi h => ?_⟩
  · exact (exec_timers h).1.trans (Instr.dtAfter_of_ne hi s s.dt)
  · have h' := exec_withTimers b s.st (.inl hi) h
    rw [← (exec_timers h).2] at h'
    exact h'

/-- Settles O51. -/
theorem soundTimerIsNeverRead : Obligations.SoundTimerIsNeverRead := by
  refine ⟨fun i s t b h => ?_, fun i s t h hi => ?_, fun s => ⟨State.tickTimer_toNat s.st, fun _ => rfl⟩, fun _ => rfl⟩
  · have h' := exec_withTimers s.dt b (.inr rfl) h
    rw [← (exec_timers h).1] at h'
    exact h'
  · exact (exec_timers h).2.trans (Instr.stAfter_of_ne hi s s.st)

end

section
/-! PROOF. O52, `V[15]` as a flag (10_state.md R22, R35). -/

namespace Sys2Proof.Machine

/-- The saturating difference is the difference of the numbers cut at zero (42_alu.md R177). -/
theorem saturatingSub_toNat (a b : Byte) : (saturatingSub a b).toNat = a.toNat - b.toNat := by
  unfold saturatingSub
  split
  · next h => exact BitVec.toNat_sub_of_le (BitVec.le_def.mpr (Nat.le_of_lt h))
  · next h => exact (Nat.sub_eq_zero_of_le (Nat.le_of_not_lt h)).symm

namespace State

theorem setFlag_getV_15 (s : State) (f : Bool) : (s.setFlag f).getV 15 = 0 ∨ (s.setFlag f).getV 15 = 1 := by
  rw [getV_setFlag]
  cases f
  · exact .inl rfl
  · exact .inr rfl

/-- A flag written before another register stays in `V[15]`. -/
theorem setFlag_setV_getV_15 (s : State) (f : Bool) {x : Reg} (hx : x ≠ 15) (b : Byte) :
    ((s.setFlag f).setV x b).getV 15 = 0 ∨ ((s.setFlag f).setV x b).getV 15 = 1 := by
  rw [getV_setV_ne _ b hx.symm]
  exact s.setFlag_getV_15 f

end State

/-- What each flag writer leaves in `V[15]`: 0 or 1, or with `x = 15` the result of an arithmetic one, which is written
after the flag (R35). -/
theorem exec_writesFlag {i : Instr} {s t : State} (hw : i.writesFlag = true) (h : exec i s = .next t) :
    (t.getV 15 = 0 ∨ t.getV 15 = 1) ∨
    (∃ y : Reg, i = .addR 15 y ∧ (t.getV 15).toNat = ((s.getV 15).toNat + (s.getV y).toNat) % 256) ∨
    (∃ y : Reg, i = .sub 15 y ∧ (t.getV 15).toNat = (s.getV 15).toNat - (s.getV y).toNat) ∨
    ∃ y : Reg, i = .subn 15 y ∧ (t.getV 15).toNat = (s.getV y).toNat - (s.getV 15).toNat := by
  cases i
  case addR x y =>
    injection h with h; subst h
    obtain rfl | hx := eq_or_ne x 15
    · exact .inr (.inl ⟨y, rfl, (congrArg _ (State.getV_setV_same ..)).trans (BitVec.toNat_add ..)⟩)
    · exact .inl (s.setFlag_setV_getV_15 _ hx _)
  case sub x y =>
    injection h with h; subst h
    obtain rfl | hx := eq_or_ne x 15
    · exact .inr (.inr (.inl ⟨y, rfl, (congrArg _ (State.getV_setV_same ..)).trans (saturatingSub_toNat ..)⟩))
    · exact .inl (s.setFlag_setV_getV_15 _ hx _)
  case subn x y =>
    injection h with h; subst h
    obtain rfl | hx := eq_or_ne x 15
    · exact .inr (.inr (.inr ⟨y, rfl, (congrArg _ (State.getV_setV_same ..)).trans (saturatingSub_toNat ..)⟩))
    · exact .inl (s.setFlag_setV_getV_15 _ hx _)
  case shr | shl | addIdx | drw => all_goals injection h with h; subst h; exact .inl (State.setFlag_getV_15 _ _)
  all_goals cases hw

end Sys2Proof.Machine

open Sys2Proof Sys2Proof.Machine

/-- Settles O52: the flag writers one by one, all other instructions from their footprint. -/
theorem flagRegisterRule : Obligations.FlagRegisterRule := by
  refine fun i s t h => ⟨fun hw => exec_writesFlag hw h, fun hw hd => (exec_covers h).regs 15 ?_⟩
  rw [i.footprint_regs, hw]
  simpa using hd

end

section
/-! PROOF. O1, the six fields of an opcode and their two overlaps (30_encoding.md R91). -/

namespace Sys2Proof

/-- The low byte is the digits `y` and `n` side by side (R91). -/
theorem extract_nn_eq_y_n (op : Word) :
    (extract op).nn.toNat = (extract op).y.val * 16 + (extract op).n.toNat := by
  rw [extract_nn, extract_y, extract_n]
  omega

/-- The address is the digit `x` above the low byte (R91). -/
theorem extract_nnn_eq_x_nn (op : Word) :
    (extract op).nnn.toNat = (extract op).x.val * 256 + (extract op).nn.toNat := by
  rw [extract_nnn, extract_x, extract_nn]
  omega

end Sys2Proof

open Sys2Proof

/-- Settles O1: the six fields one by one, then the two overlaps. -/
theorem fieldsOfEveryOpcode : Obligations.FieldsOfEveryOpcode := fun op =>
  ⟨extract_top op, extract_x op, extract_y op, extract_n op, extract_nn op, extract_nnn op,
    extract_nn_eq_y_n op, extract_nnn_eq_x_nn op⟩

end

section
/-! PROOF. O20 and O21, the jumps and the skips on registers and immediates (41_control_flow.md R150, R153 to R158): the
new `PC` as a number, once for each form of target and once for every skip. -/

namespace Sys2Proof

theorem Imm12.toWord_toNat (nnn : Imm12) : (Imm12.toWord nnn).toNat = nnn.toNat :=
  BitVec.toNat_setWidth_of_le (by decide)

/-- `BNNN` keeps the top digit of its address (R95). -/
theorem Instr.wellFormed_jpOff {x : Reg} {nnn : Imm12} :
    (Instr.jpOff x nnn).wellFormed = true ↔ x = topDigit nnn :=
  beq_iff_eq

end Sys2Proof

namespace Sys2Proof.Machine

/-- `BNNN`'s sum is at most 4095 + 255, so 16 bits hold it unreduced (R153). -/
theorem offsetTarget_toNat (nnn : Imm12) (off : Byte) :
    (offsetTarget nnn off).toNat = nnn.toNat + off.toNat := by
  have hnnn := nnn.isLt
  have hoff := off.isLt
  rw [offsetTarget, BitVec.toNat_add, Imm12.toWord_toNat, BitVec.toNat_setWidth_of_le (by decide),
    Nat.mod_eq_of_lt (by omega)]

/-- The offset register of `BNNN` under either setting of `Q_JUMP_VX` (R153). -/
theorem jumpOffset_eq (s : State) (x : Reg) : jumpOffset s x = s.getV (if s.params.qJumpVx then x else 0) :=
  (apply_ite s.getV ..).symm

/-- Where a skip leaves `PC`, for any condition `p` that its test decides (R158). -/
theorem skipIf_pc_toNat {c : Bool} {p : Prop} [Decidable p] (h : c = true ↔ p) (s : State) :
    (skipIf c s).pc.toNat = (if p then s.pc.toNat + 2 else s.pc.toNat) % 65536 := by
  rw [skipIf_eq, State.setPc_pc]
  by_cases hp : p
  · rw [if_pos hp, if_pos (h.mpr hp)]
    exact BitVec.toNat_add s.pc 2
  · rw [if_neg hp, if_neg (mt h.mp hp)]
    exact (Nat.mod_eq_of_lt s.pc.isLt).symm

/-- A skip touches nothing but `PC` (R158). -/
theorem skipIf_covers (c : Bool) (s : State) : Footprint.Covers { pc := true } s (skipIf c s) :=
  (Footprint.Covers.refl _ s).skipIf rfl c

end Sys2Proof.Machine

open Sys2Proof Sys2Proof.Machine

/-- Settles O20: the two targets as numbers, each a single write of `PC`. -/
theorem jumpResults : Obligations.JumpResults := by
  refine ⟨fun nnn s => ⟨_, rfl, Imm12.toWord_toNat nnn, ?_⟩, fun x nnn s => ⟨_, rfl, ?_, fun hwf => ?_, ?_⟩⟩
  · exact (Footprint.Covers.refl _ s).setPc rfl _
  · rw [State.setPc_pc, offsetTarget_toNat, jumpOffset_eq]
  · rw [Instr.wellFormed_jpOff.mp hwf, topDigit_val]
  · exact (Footprint.Covers.refl _ s).setPc rfl _

/-- Settles O21: each skip is `skipIf` on the test of its rule. -/
theorem skipResults : Obligations.SkipResults := by
  refine ⟨fun x nn s => ⟨?seI, ?sneI⟩, fun x y s => ⟨?seR, ?sneR⟩⟩
  case seI => exact ⟨_, rfl, skipIf_pc_toNat beq_iff_eq s, skipIf_covers _ s⟩
  case sneI => exact ⟨_, rfl, skipIf_pc_toNat bne_iff_ne s, skipIf_covers _ s⟩
  case seR => exact ⟨_, rfl, skipIf_pc_toNat beq_iff_eq s, skipIf_covers _ s⟩
  case sneR => exact ⟨_, rfl, skipIf_pc_toNat bne_iff_ne s, skipIf_covers _ s⟩

end

section
/-! PROOF. O25 and O26, the loads, the add and the logic instructions whose one effect is to write `V[x]` (42_alu.md R170
to R175). -/

namespace Sys2Proof.Machine

/-- Writing `V[x]` touches nothing else; `V[15]` only where it is the destination (10_state.md R23). -/
theorem State.setV_covers (s : State) (x : Reg) (b : Byte) : Footprint.Covers { regs := [x] } s (s.setV x b) :=
  (Footprint.Covers.refl _ s).setV (List.mem_cons_self ..) b

end Sys2Proof.Machine

open Sys2Proof Sys2Proof.Machine

/-- Settles O25: each instruction is one write of `V[x]`, and the sum of two bytes wraps modulo 256. -/
theorem loadCopyAndAddImmediateResults : Obligations.LoadCopyAndAddImmediateResults := by
  refine ⟨fun x nn s => ⟨?ldI, ?addI⟩, fun x y s => ?ldR⟩
  case ldI => exact ⟨_, rfl, s.getV_setV_same x nn, s.setV_covers x nn⟩
  case addI =>
    refine ⟨_, rfl, ?_, s.setV_covers x _⟩
    rw [State.getV_setV_same]
    exact BitVec.toNat_add (s.getV x) nn
  case ldR => exact ⟨_, rfl, s.getV_setV_same x _, s.setV_covers x _⟩

/-- Settles O26: each instruction is one write of `V[x]`, whose bits the bit-vector operation gives. -/
theorem logicResults : Obligations.LogicResults := by
  refine fun x y s => ⟨?or, ?and, ?xor⟩
  case or =>
    refine ⟨_, rfl, fun k _ => ?_, s.setV_covers x _⟩
    rw [State.getV_setV_same, BitVec.getLsbD_or]
  case and =>
    refine ⟨_, rfl, fun k _ => ?_, s.setV_covers x _⟩
    rw [State.getV_setV_same, BitVec.getLsbD_and]
  case xor =>
    refine ⟨_, rfl, fun k _ => ?_, s.setV_covers x _⟩
    rw [State.getV_setV_same, BitVec.getLsbD_xor]

end

section
/-! PROOF. O31, the load of the index register (43_index_memory.md R200). -/

open Sys2Proof Sys2Proof.Machine

/-- Settles O31: `ANNN` is one write of `I`, and widening the 12-bit immediate to 16 bits keeps its value. -/
theorem loadIndexResult : Obligations.LoadIndexResult := by
  refine fun nnn s => ⟨s.setI nnn.toWord, rfl, ?value, ?frame⟩
  case value =>
    rw [State.setI_i]
    exact Imm12.toWord_toNat nnn
  case frame => exact (Footprint.Covers.refl _ s).setI rfl _

end

section
/-! PROOF. O41, the clear of the display (44_display.md R221). -/

open Sys2Proof Sys2Proof.Machine

/-- Settles O41: `00E0` replaces the grid by its clear and requests a redraw, and neither write reaches a register. -/
theorem clearResult : Obligations.ClearResult := by
  refine fun s => ⟨(s.setFb s.fb.clear).requestRedraw, rfl, ?pixels, ?size, ?redraw, ?frame⟩
  case pixels => exact Grid.pixel_clear s.fb
  case size => exact fun _ _ => Grid.clear_shaped
  case redraw => rfl
  case frame => exact ((Footprint.Covers.refl _ s).setFb rfl _).requestRedraw rfl

end

section
/-! PROOF. O48, the delay timer's two instructions (45_keypad_timers.md R234, R235): the instruction acts on the timer as
the cycle found it, and the tick comes after. -/

namespace Sys2Proof.Machine

/-- A running step whose instruction stays in `Running` ends with the tick (40_execution_cycle.md R128). -/
theorem step_eq_tick {s t : State} {i : Instr} (h : s.AboutToRun i) (ht : exec i s.beginCycle = .next t)
    (hm : t.mode = s.mode) : step s = .next t.tick := by
  have ⟨_, hrun, _⟩ := h
  have hok : t.mode ≠ .faulted := by
    rw [hm, hrun]
    decide
  rw [step_of_aboutToRun h ht, State.endCycle_tick t hok]

end Sys2Proof.Machine

open Sys2Proof Sys2Proof.Machine

/-- Settles O48: each instruction is one write, of `V[x]` or of `DT`, and the tick that follows leaves `V[x]` alone and
lowers `DT`. -/
theorem delayTimerResults : Obligations.DelayTimerResults := by
  refine ⟨fun x s => ⟨?execLdFromDt, ?execLdDt⟩, fun x s h => ?stepLdFromDt, fun x s h => ?stepLdDt⟩
  case execLdFromDt => exact ⟨s.setV x s.dt, rfl, s.getV_setV_same x s.dt, s.setV_covers x s.dt⟩
  case execLdDt => exact ⟨s.setDt (s.getV x), rfl, s.setDt_dt _, (Footprint.Covers.refl _ s).setDt rfl _⟩
  case stepLdFromDt =>
    refine ⟨(s.beginCycle.setV x s.dt).tick, step_eq_tick h rfl rfl, ?_, State.tickTimer_toNat s.dt⟩
    rw [State.getV_tick, State.getV_setV_same]
  case stepLdDt =>
    exact ⟨(s.beginCycle.setDt (s.getV x)).tick, step_eq_tick h rfl rfl, State.tickTimer_toNat (s.getV x)⟩

end

section
/-! PROOF. O14, the `dump_state` transaction (60_exceptions.md R264). -/

namespace Sys2Proof.Machine

/-- A step whose next transaction is `dump_state` takes it off the list and replies with the state's snapshot (R262,
R264). -/
theorem step_of_dumpState {s : State} {rest : List Transaction} (h : s.host = .dumpState :: rest) :
    step s = .next ({ s with host := rest }.setReply (.snapshot s.snapshot)) :=
  State.issue_cons h

end Sys2Proof.Machine

open Sys2Proof Sys2Proof.Machine

/-- Settles O14: the step is one write of the reply, in whichever mode, and the snapshot written there copies each of
the fields it shows. -/
theorem dumpStateShowsAndChangesNothing : Obligations.DumpStateShowsAndChangesNothing := by
  refine fun s rest h => ⟨_, step_of_dumpState h, ?frame, s.snapshot, State.setReply_reply .., ?shown⟩
  case frame => rfl
  case shown => exact ⟨rfl, rfl, rfl, rfl, fun _ => rfl⟩

end

section
/-! PROOF. O16, the first fetch after a `load` (70_reset_and_hazards.md R283): what an accepted `load` leaves in the mode,
in `PC` and at the addresses of the image. -/

namespace Sys2Proof.Machine

/-- A step whose next transaction is `load` takes it off the list and loads (R262, R280). -/
theorem step_of_load {s : State} {image : List Byte} {rest : List Transaction} (h : s.host = .load image :: rest) :
    step s = .next ({ s with host := rest }.load image) :=
  State.issue_cons h

namespace State

/-- Everything an accepted `load` does (R280). -/
theorem load_accepted (s : State) {image : List Byte} (h : image.length ≤ 3584) :
    s.load image =
      { s with
        v := Vector.replicate 16 0
        i := 0
        pc := 0x200
        dt := 0
        st := 0
        sp := 0
        mem := loadedMemory s.params.font image
        mode := .running
        err := none
        reply := .nothing } :=
  if_pos h

/-- The image stands at 0x200, verbatim (R280). -/
theorem loadedMemory_read_image (font : Vector Byte 80) {image : List Byte} (h : image.length ≤ 3584) {j : Nat}
    (hj : j < image.length) : (loadedMemory font image).read (0x200 + j) = image[j] :=
  Memory.read_writeList_inside image 0x200 j hj (Memory.writeList_wf font.toList 0x050 Memory.empty_wf) (by omega)

/-- The fetch at 0x200 after an accepted `load` is the first two bytes of the image (R283). -/
theorem fetch_load (s : State) {hi lo : Byte} {tail : List Byte} (h : (hi :: lo :: tail).length ≤ 3584) :
    (s.load (hi :: lo :: tail)).fetch = hi ++ lo := by
  have hfirst := loadedMemory_read_image s.params.font h (j := 0) (by simp)
  have hsecond := loadedMemory_read_image s.params.font h (j := 1) (by simp)
  rw [load_accepted s h]
  exact congrArg₂ (· ++ ·) hfirst hsecond

end State
end Sys2Proof.Machine

open Sys2Proof Sys2Proof.Machine

/-- Settles O16: the bound on the tail makes the `load` an accepted one, which sets the mode and `PC`, and the two bytes
the fetch reads at `PC` are the first two the `load` has stored. -/
theorem executionBeginsAtTheImage : Obligations.ExecutionBeginsAtTheImage := by
  intro s hi lo tail rest hhost htail
  have hlen : (hi :: lo :: tail).length ≤ 3584 := Nat.add_le_add_right htail 2
  refine ⟨_, step_of_load hhost, ?mode, ?pc, State.fetch_load _ hlen⟩
  case mode => rw [State.load_accepted _ hlen]
  case pc => rw [State.load_accepted _ hlen]

end

section
/-! PROOF. O2, O3, O4 and O5, decoding against encoding and against the opcode map (30_encoding.md R91 to R98). -/

namespace Sys2Proof

/-! ### Decoding what was encoded -/

/-- Each family of the dispatch gives back the instruction its format was built from (R95). -/
theorem decode_encode {i : Instr} (h : i.wellFormed = true) : decode (encode i) = .ok i := by
  cases i
  case cls | ret => all_goals rfl
  case jp | call | ldIdx => all_goals simp [encode, decode, dispatch]
  case jpOff x nnn => simp [encode, decode, dispatch, beq_iff_eq.mp h]
  case seI | sneI | ldI | addI | rnd => all_goals simp [encode, decode, dispatch]
  case seR | sneR => all_goals simp [encode, decode, dispatch]
  case ldR | or | and | xor | addR | sub | shr | subn | shl =>
    all_goals simp [encode, decode, dispatch, decodeFamily8]
  case drw x y n =>
    have hn : n < 16 := of_decide_eq_true h
    simp [encode, decode, dispatch, Nat.mod_eq_of_lt hn]
  case skp | sknp => all_goals simp [encode, decode, dispatch, decodeFamilyE]
  case ldFromDt | waitkey | ldDt | ldSt | addIdx | font | bcd | stm | ldm =>
    all_goals simp [encode, decode, dispatch, decodeFamilyF]

/-- The two bytes of an instruction, whatever follows them, are decoded as its opcode (R63, R90). -/
theorem decodeBytes_encodeBytes {i : Instr} (h : decode (encode i) = .ok i) (rest : List Byte) :
    decodeBytes (encodeBytes i ++ rest) = .ok (i, rest) := by
  simp [encodeBytes, decodeBytes, encodeBytes_join, h]

/-! ### Encoding what was decoded -/

section fields

variable {op : Word} {t : BitVec 4}

/-- An opcode is rebuilt from its top digit and the fields of its format (R91, R92). -/
theorem fmtNNN_of_top (ht : (extract op).top = t) : fmtNNN t (extract op).nnn = op := ht ▸ fmtNNN_extract op

theorem fmtXNN_of_top (ht : (extract op).top = t) : fmtXNN t (extract op).x (extract op).nn = op :=
  ht ▸ fmtXNN_extract op

theorem fmtXNN_of_nn {nn : Byte} (ht : (extract op).top = t) (hnn : (extract op).nn = nn) :
    fmtXNN t (extract op).x nn = op := hnn ▸ fmtXNN_of_top ht

theorem fmtXYN_of_top (ht : (extract op).top = t) :
    fmtXYN t (extract op).x (extract op).y (extract op).n = op := ht ▸ fmtXYN_extract op

theorem fmtXYN_of_n {n : BitVec 4} (ht : (extract op).top = t) (hn : (extract op).n = n) :
    fmtXYN t (extract op).x (extract op).y n = op := hn ▸ fmtXYN_of_top ht

end fields

/-- The row count of `DXYN` is its digit `n` as a number. -/
theorem encode_drw (x y : Reg) (n : BitVec 4) : encode (.drw x y n.toNat) = fmtXYN 0xD#4 x y n := by
  rw [encode, BitVec.ofNat_toNat, BitVec.setWidth_eq]

section decoded

variable {op : Word} {i : Instr}

theorem dispatch_of_decode (h : decode op = .ok i) : dispatch op (extract op) = some i := by
  rw [decode] at h
  split at h
  · next hd => cases h; exact hd
  · cases h

/-- What family 0 decodes to stands for the opcode. -/
theorem encode_of_decodeFamily0 (h : decodeFamily0 op = some i) : i.wellFormed = true ∧ encode i = op := by
  rw [decodeFamily0] at h
  split_ifs at h with hcls hret
  · cases h; exact ⟨rfl, hcls.symm⟩
  · cases h; exact ⟨rfl, hret.symm⟩

/-- What family 8 decodes to stands for the opcode, its digit `n` being the one the match found. -/
theorem encode_of_decodeFamily8 (ht : (extract op).top = 0x8#4) (h : decodeFamily8 (extract op) = some i) :
    i.wellFormed = true ∧ encode i = op := by
  rw [decodeFamily8] at h
  split at h
  case h_10 => cases h
  all_goals next hn => cases h; exact ⟨rfl, fmtXYN_of_n ht (BitVec.eq_of_toNat_eq hn)⟩

/-- What family E decodes to stands for the opcode. -/
theorem encode_of_decodeFamilyE (ht : (extract op).top = 0xE#4) (h : decodeFamilyE (extract op) = some i) :
    i.wellFormed = true ∧ encode i = op := by
  rw [decodeFamilyE] at h
  split_ifs at h with hskp hsknp
  all_goals cases h; exact ⟨rfl, fmtXNN_of_nn ht ‹_›⟩

/-- What family F decodes to stands for the opcode. -/
theorem encode_of_decodeFamilyF (ht : (extract op).top = 0xF#4) (h : decodeFamilyF (extract op) = some i) :
    i.wellFormed = true ∧ encode i = op := by
  rw [decodeFamilyF] at h
  split_ifs at h
  all_goals cases h; exact ⟨rfl, fmtXNN_of_nn ht ‹_›⟩

/-- The instruction an opcode decodes to is well formed and stands for that opcode. -/
theorem encode_of_decode (h : decode op = .ok i) : i.wellFormed = true ∧ encode i = op := by
  have hd := dispatch_of_decode h
  rw [dispatch] at hd
  split at hd
  case h_1 => exact encode_of_decodeFamily0 hd
  case h_2 ht | h_3 ht | h_11 ht =>
    all_goals cases hd; exact ⟨rfl, fmtNNN_of_top (BitVec.eq_of_toNat_eq ht)⟩
  case h_4 ht | h_5 ht | h_7 ht | h_8 ht | h_13 ht =>
    all_goals cases hd; exact ⟨rfl, fmtXNN_of_top (BitVec.eq_of_toNat_eq ht)⟩
  case h_6 ht | h_10 ht =>
    all_goals
      split_ifs at hd with hn
      cases hd
      exact ⟨rfl, fmtXYN_of_n (BitVec.eq_of_toNat_eq ht) hn⟩
  case h_9 ht => exact encode_of_decodeFamily8 (BitVec.eq_of_toNat_eq ht) hd
  case h_12 ht =>
    cases hd
    exact ⟨beq_iff_eq.mpr (extract_x_eq_topDigit op), fmtNNN_of_top (BitVec.eq_of_toNat_eq ht)⟩
  case h_14 ht =>
    cases hd
    refine ⟨decide_eq_true (extract op).n.isLt, ?_⟩
    rw [encode_drw]
    exact fmtXYN_of_top (BitVec.eq_of_toNat_eq ht)
  case h_15 ht => exact encode_of_decodeFamilyE (BitVec.eq_of_toNat_eq ht) hd
  case h_16 =>
    have htop := (extract op).top.isLt
    refine encode_of_decodeFamilyF (BitVec.eq_of_toNat_eq (show (extract op).top.toNat = 15 from ?_)) hd
    simp only [imp_false] at *
    omega

end decoded

/-! ### The opcode map -/

/-- Two rows share no opcode: they ask for different values of a bit that both their masks test (R96). -/
def OpcodeRow.Disjoint (r r' : OpcodeRow) : Prop := r.value &&& r'.mask ≠ r'.value &&& r.mask

theorem OpcodeRow.Disjoint.not_selects {r r' : OpcodeRow} {op : Word} (h : r.Disjoint r') (hr : r.selects op = true) :
    r'.selects op = false := by
  refine Bool.eq_false_iff.mpr fun hr' => h ?_
  rw [← beq_iff_eq.mp hr, ← beq_iff_eq.mp hr', BitVec.and_assoc, BitVec.and_assoc, BitVec.and_comm r.mask]

theorem OpcodeRow.Disjoint.symm {r r' : OpcodeRow} (h : r.Disjoint r') : r'.Disjoint r := Ne.symm h

/-- The rows of the opcode map are pairwise disjoint (R96). -/
theorem opcodeMap_pairwise_disjoint : opcodeMap.Pairwise OpcodeRow.Disjoint := by
  unfold OpcodeRow.Disjoint
  decide

/-- Among disjoint rows, the one that selects an opcode is the only one. -/
theorem filter_selects_of_disjoint {op : Word} {r : OpcodeRow} (hop : r.selects op = true) :
    ∀ {rows : List OpcodeRow}, rows.Pairwise OpcodeRow.Disjoint → r ∈ rows → rows.filter (·.selects op) = [r]
  | row :: rows, hdis, hr => by
    obtain ⟨hrow, hrows⟩ := List.pairwise_cons.mp hdis
    rcases List.mem_cons.mp hr with rfl | hr
    · rw [List.filter_cons_of_pos (by exact hop), List.filter_eq_nil_iff.mpr]
      exact fun r' hr' => Bool.eq_false_iff.mp ((hrow r' hr').not_selects hop)
    · rw [List.filter_cons_of_neg (by exact Bool.eq_false_iff.mp ((hrow r hr).symm.not_selects hop))]
      exact filter_selects_of_disjoint hop hrows hr

/-- The opcode of an instruction selects the instruction's row, which the map has (R96). -/
theorem encodingRow : ∀ i : Instr, Laws.EncodingRow.Statement i := by
  open Laws.EncodingRow in
  rintro ⟨⟩
  exacts [cls, ret, jp _, call _, seI _ _, sneI _ _, seR _ _, ldI _ _, addI _ _, ldR _ _, or _ _, and _ _, xor _ _,
    addR _ _, sub _ _, shr _ _, subn _ _, shl _ _, sneR _ _, ldIdx _, jpOff _ _, rnd _ _, drw _ _ _, skp _, sknp _,
    ldFromDt _, waitkey _, ldDt _, ldSt _, addIdx _, font _, bcd _, stm _, ldm _]

/-- A field that a row's mask tests is the row's in every opcode that selects the row. -/
theorem OpcodeRow.field_of_selects {r : OpcodeRow} {op : Word} (h : r.selects op = true) (start len : Nat)
    (hm : r.mask.extractLsb' start len = BitVec.allOnes len) :
    op.extractLsb' start len = r.value.extractLsb' start len := by
  rw [← beq_iff_eq.mp h, BitVec.extractLsb'_and, hm, BitVec.and_allOnes]

section selected

variable {op : Word} {r : OpcodeRow} {t : BitVec 4} (h : r.selects op = true)
include h

/-- An opcode is rebuilt from the fields its row fixes and the operands it leaves free, once per mask of R96. -/
theorem fmtNNN_of_selects (hm : r.mask = 0xF000) (ht : r.value.extractLsb' 12 4 = t) :
    fmtNNN t (extract op).nnn = op :=
  fmtNNN_of_top (ht ▸ r.field_of_selects h 12 4 (hm ▸ rfl))

theorem fmtXNN_of_selects (hm : r.mask = 0xF000) (ht : r.value.extractLsb' 12 4 = t) :
    fmtXNN t (extract op).x (extract op).nn = op :=
  fmtXNN_of_top (ht ▸ r.field_of_selects h 12 4 (hm ▸ rfl))

theorem fmtXYN_of_selects (hm : r.mask = 0xF000) (ht : r.value.extractLsb' 12 4 = t) :
    fmtXYN t (extract op).x (extract op).y (extract op).n = op :=
  fmtXYN_of_top (ht ▸ r.field_of_selects h 12 4 (hm ▸ rfl))

theorem fmtX_of_selects {nn : Byte} (hm : r.mask = 0xF0FF) (ht : r.value.extractLsb' 12 4 = t)
    (hnn : r.value.extractLsb' 0 8 = nn) : fmtXNN t (extract op).x nn = op :=
  fmtXNN_of_nn (ht ▸ r.field_of_selects h 12 4 (hm ▸ rfl)) (hnn ▸ r.field_of_selects h 0 8 (hm ▸ rfl))

theorem fmtXY_of_selects {n : BitVec 4} (hm : r.mask = 0xF00F) (ht : r.value.extractLsb' 12 4 = t)
    (hn : r.value.extractLsb' 0 4 = n) : fmtXYN t (extract op).x (extract op).y n = op :=
  fmtXYN_of_n (ht ▸ r.field_of_selects h 12 4 (hm ▸ rfl)) (hn ▸ r.field_of_selects h 0 4 (hm ▸ rfl))

theorem value_of_selects (hm : r.mask = 0xFFFF) : r.value = op := by
  rw [← beq_iff_eq.mp h, hm]
  exact BitVec.and_allOnes

/-- An opcode that selects one of the rows 1 to 9 is the opcode of an instruction. -/
theorem exists_encode_of_rowsA (hr : r ∈ opcodeRowsA) : ∃ i : Instr, i.wellFormed = true ∧ encode i = op := by
  simp only [opcodeRowsA, List.mem_cons, List.not_mem_nil, or_false] at hr
  rcases hr with rfl | rfl | rfl | rfl | rfl | rfl | rfl | rfl | rfl
  · exact ⟨.cls, rfl, value_of_selects h rfl⟩
  · exact ⟨.ret, rfl, value_of_selects h rfl⟩
  · exact ⟨.jp _, rfl, fmtNNN_of_selects h rfl rfl⟩
  · exact ⟨.call _, rfl, fmtNNN_of_selects h rfl rfl⟩
  · exact ⟨.seI _ _, rfl, fmtXNN_of_selects h rfl rfl⟩
  · exact ⟨.sneI _ _, rfl, fmtXNN_of_selects h rfl rfl⟩
  · exact ⟨.seR _ _, rfl, fmtXY_of_selects h rfl rfl rfl⟩
  · exact ⟨.ldI _ _, rfl, fmtXNN_of_selects h rfl rfl⟩
  · exact ⟨.addI _ _, rfl, fmtXNN_of_selects h rfl rfl⟩

/-- An opcode that selects one of the rows 10 to 18 is the opcode of an instruction. -/
theorem exists_encode_of_rowsB (hr : r ∈ opcodeRowsB) : ∃ i : Instr, i.wellFormed = true ∧ encode i = op := by
  simp only [opcodeRowsB, List.mem_cons, List.not_mem_nil, or_false] at hr
  rcases hr with rfl | rfl | rfl | rfl | rfl | rfl | rfl | rfl | rfl
  · exact ⟨.ldR _ _, rfl, fmtXY_of_selects h rfl rfl rfl⟩
  · exact ⟨.or _ _, rfl, fmtXY_of_selects h rfl rfl rfl⟩
  · exact ⟨.and _ _, rfl, fmtXY_of_selects h rfl rfl rfl⟩
  · exact ⟨.xor _ _, rfl, fmtXY_of_selects h rfl rfl rfl⟩
  · exact ⟨.addR _ _, rfl, fmtXY_of_selects h rfl rfl rfl⟩
  · exact ⟨.sub _ _, rfl, fmtXY_of_selects h rfl rfl rfl⟩
  · exact ⟨.shr _ _, rfl, fmtXY_of_selects h rfl rfl rfl⟩
  · exact ⟨.subn _ _, rfl, fmtXY_of_selects h rfl rfl rfl⟩
  · exact ⟨.shl _ _, rfl, fmtXY_of_selects h rfl rfl rfl⟩

/-- An opcode that selects one of the rows 19 to 34 is the opcode of an instruction. -/
theorem exists_encode_of_rowsC (hr : r ∈ opcodeRowsC) : ∃ i : Instr, i.wellFormed = true ∧ encode i = op := by
  simp only [opcodeRowsC, List.cons_append, List.nil_append, List.mem_cons, List.not_mem_nil, or_false] at hr
  rcases hr with rfl | rfl | rfl | rfl | rfl | rfl | rfl | rfl | rfl | rfl | rfl | rfl | rfl | rfl | rfl | rfl
  · exact ⟨.sneR _ _, rfl, fmtXY_of_selects h rfl rfl rfl⟩
  · exact ⟨.ldIdx _, rfl, fmtNNN_of_selects h rfl rfl⟩
  · exact ⟨.jpOff (topDigit _) _, beq_self_eq_true _, fmtNNN_of_selects h rfl rfl⟩
  · exact ⟨.rnd _ _, rfl, fmtXNN_of_selects h rfl rfl⟩
  · exact ⟨.drw _ _ _, decide_eq_true (extract op).n.isLt, (encode_drw ..).trans (fmtXYN_of_selects h rfl rfl)⟩
  · exact ⟨.skp _, rfl, fmtX_of_selects h rfl rfl rfl⟩
  · exact ⟨.sknp _, rfl, fmtX_of_selects h rfl rfl rfl⟩
  · exact ⟨.ldFromDt _, rfl, fmtX_of_selects h rfl rfl rfl⟩
  · exact ⟨.waitkey _, rfl, fmtX_of_selects h rfl rfl rfl⟩
  · exact ⟨.ldDt _, rfl, fmtX_of_selects h rfl rfl rfl⟩
  · exact ⟨.ldSt _, rfl, fmtX_of_selects h rfl rfl rfl⟩
  · exact ⟨.addIdx _, rfl, fmtX_of_selects h rfl rfl rfl⟩
  · exact ⟨.font _, rfl, fmtX_of_selects h rfl rfl rfl⟩
  · exact ⟨.bcd _, rfl, fmtX_of_selects h rfl rfl rfl⟩
  · exact ⟨.stm _, rfl, fmtX_of_selects h rfl rfl rfl⟩
  · exact ⟨.ldm _, rfl, fmtX_of_selects h rfl rfl rfl⟩

/-- An opcode that selects a row of the map is the opcode of an instruction. -/
theorem exists_encode_of_selects (hr : r ∈ opcodeMap) : ∃ i : Instr, i.wellFormed = true ∧ encode i = op := by
  rw [opcodeMap, List.mem_append, List.mem_append] at hr
  obtain (hr | hr) | hr := hr
  · exact exists_encode_of_rowsA h hr
  · exact exists_encode_of_rowsB h hr
  · exact exists_encode_of_rowsC h hr

end selected

/-- An opcode that decodes to no instruction selects no row. -/
theorem not_selects_of_decode_error {op : Word} {e : DecodeError} (h : decode op = .error e) {r : OpcodeRow}
    (hr : r ∈ opcodeMap) : r.selects op = false := by
  refine Bool.eq_false_iff.mpr fun hs => ?_
  obtain ⟨i, hwf, rfl⟩ := exists_encode_of_selects hs hr
  rw [decode_encode hwf] at h
  cases h

end Sys2Proof

open Sys2Proof

/-- Settles O2: the decoder gives back each format's fields, and the two bytes joined are the opcode. -/
theorem decodeEncodeRoundTrip : Obligations.DecodeEncodeRoundTrip := fun _ h =>
  ⟨decode_encode h, decodeBytes_encodeBytes (decode_encode h)⟩

/-- Settles O3, branch by branch of the dispatch. -/
theorem encodeDecodeRoundTrip : Obligations.EncodeDecodeRoundTrip := fun _ _ h => encode_of_decode h

/-- Settles O4: the row of the instruction decoded selects its opcode, and no other row does, since the rows are
disjoint; a row that selected an illegal opcode would make it an instruction's. -/
theorem decoderAgreesWithOpcodeMap : Obligations.DecoderAgreesWithOpcodeMap := by
  intro op
  cases hd : decode op with
  | ok i =>
    obtain ⟨hsel, hmem⟩ := encodingRow i
    rw [(encode_of_decode hd).2] at hsel
    exact filter_selects_of_disjoint hsel opcodeMap_pairwise_disjoint hmem
  | error e =>
    exact List.filter_eq_nil_iff.mpr fun r hr => Bool.eq_false_iff.mp (not_selects_of_decode_error hd hr)

/-- Settles O5: ten closed evaluations of the decoder. -/
theorem sampleOpcodesDecode : Obligations.SampleOpcodesDecode := by
  unfold Obligations.SampleOpcodesDecode
  decide

end

section
/-! SUPPORT. A step as one transaction, and everything the `step` transaction can do: in a cycle the fatal error the word
at `PC` causes, if it causes one, else the instruction and the tick. -/

namespace Sys2Proof
open Machine

/-- The fatal error an instruction executed in `s` raises (60_exceptions.md R252 to R254). -/
def Instr.raises (i : Instr) (s : State) : Option ErrKind :=
  match i with
  | .call _ => if s.sp = 16 then some .stackOverflow else none
  | .ret => if s.sp = 0 then some .stackUnderflow else none
  | _ => none

/-- The mode an instruction that raises no error leaves, begun in the mode `m`: only `FX0A` sets it (R233). -/
def Instr.modeAfter (i : Instr) (m : Mode) : Mode :=
  match i with
  | .waitkey x => .waitingForKey x
  | _ => m

theorem Instr.modeAfter_cases (i : Instr) (m : Mode) : i.modeAfter m = m ∨ ∃ x, i.modeAfter m = .waitingForKey x := by
  cases i
  case waitkey x => exact .inr ⟨x, rfl⟩
  all_goals exact .inl rfl

/-- An instruction that raises no error leaves no other mode than the one it began in or the key-wait. -/
theorem Instr.modeAfter_ne {i : Instr} {m m' : Mode} (hm : m ≠ m') (hm' : ∀ x, Mode.waitingForKey x ≠ m') :
    i.modeAfter m ≠ m' := by
  obtain h | ⟨x, h⟩ := i.modeAfter_cases m
  · rwa [h]
  · rw [h]
    exact hm' x

end Sys2Proof

namespace Sys2Proof.Machine

/-! ### One instruction -/

theorem exec_of_raises {i : Instr} {s : State} {k : ErrKind} (h : i.raises s = some k) :
    exec i s = .next (s.raise k (encode i)) := by
  cases i
  case call nnn =>
    rw [Instr.raises] at h
    split_ifs at h with hsp
    cases h
    rw [exec, execCall_eq, dif_neg (by rw [hsp]; decide)]
  case ret =>
    rw [Instr.raises] at h
    split_ifs at h with hsp
    cases h
    rw [exec, execRet_eq, dif_neg (by rw [hsp]; decide)]
  all_goals cases h

/-- A call that raises nothing pushes the advanced `PC` and jumps. -/
theorem exec_call_of_not_raises {nnn : Imm12} {s : State} (h : (Instr.call nnn).raises s = none) :
    ∃ hsp : s.sp.val < 16, exec (.call nnn) s =
      .next { s with pc := nnn.toWord, stack := s.stack.set s.sp.val s.pc, sp := ⟨s.sp.val + 1, by omega⟩ } := by
  rw [Instr.raises] at h
  have hsp : s.sp.val < 16 := by
    by_contra hfull
    rw [if_pos (State.sp_eq_full hfull)] at h
    cases h
  exact ⟨hsp, by rw [exec, execCall_eq, dif_pos hsp]⟩

/-- A return that raises nothing pops into `PC`. -/
theorem exec_ret_of_not_raises {s : State} (h : Instr.ret.raises s = none) :
    ∃ hsp : 0 < s.sp.val, exec .ret s =
      .next { s with pc := s.stack[s.sp.val - 1], sp := ⟨s.sp.val - 1, by omega⟩ } := by
  rw [Instr.raises] at h
  have hsp : 0 < s.sp.val := by
    by_contra hempty
    rw [if_pos (State.sp_eq_empty hempty)] at h
    cases h
  exact ⟨hsp, by rw [exec, execRet_eq, dif_pos hsp]⟩

/-- What an instruction that raises no error leaves in the mode and the error record. -/
theorem exec_mode_err {i : Instr} {s t : State} (hr : i.raises s = none) (h : exec i s = .next t) :
    t.mode = i.modeAfter s.mode ∧ t.err = s.err := by
  have hcov := exec_covers h
  cases i
  case call =>
    obtain ⟨_, hcall⟩ := exec_call_of_not_raises hr
    cases hcall.symm.trans h
    exact ⟨rfl, rfl⟩
  case ret =>
    obtain ⟨_, hret⟩ := exec_ret_of_not_raises hr
    cases hret.symm.trans h
    exact ⟨rfl, rfl⟩
  case waitkey => cases h; exact ⟨rfl, rfl⟩
  all_goals exact ⟨hcov.mode rfl, hcov.err rfl⟩

namespace State

/-! ### The `step` transaction -/

/-- The fatal error a cycle begun in `s` takes, if it takes one (60_exceptions.md R250). -/
def fatalError (s : State) : Option ErrKind :=
  match decode s.fetch with
  | .ok i => i.raises s
  | .error _ => some .unrecognizedOpcode

theorem fatalError_ok {s : State} {i : Instr} (h : decode s.fetch = .ok i) : s.fatalError = i.raises s := by
  rw [fatalError, h]

theorem fatalError_error {s : State} {e : DecodeError} (h : decode s.fetch = .error e) :
    s.fatalError = some .unrecognizedOpcode := by
  rw [fatalError, h]

/-- The state a fatal error leaves (R255): the state before the cycle but for the mode, the error record and the reply. -/
def takeError (s : State) (k : ErrKind) : State :=
  { s with mode := .faulted, err := some ⟨k, s.fetch, s.pc⟩, reply := .report false (some ⟨k, s.fetch, s.pc⟩) }

/-- A cycle that causes a fatal error does nothing but take it. -/
theorem cycle_of_fatalError {s : State} {k : ErrKind} (h : s.fatalError = some k) : s.cycle = .next (s.takeError k) := by
  cases hd : decode s.fetch with
  | error e =>
    rw [fatalError_error hd] at h
    cases h
    rw [cycle_illegal hd, raise_beginCycle, takeError]
  | ok i =>
    rw [fatalError_ok hd] at h
    have hexec : exec i s.beginCycle = .next (s.beginCycle.raise k (encode i)) := exec_of_raises h
    rw [cycle, hd]
    simp only [hexec]
    rw [endCycle_faulted _ rfl, raise_beginCycle, (encode_of_decode hd).2, takeError]

/-- A running cycle that causes no fatal error is the decoded instruction and then the tick. -/
theorem cycle_of_no_fatalError {s t : State} (hrun : s.mode = .running) (hf : s.fatalError = none)
    (h : s.cycle = .next t) :
    ∃ i u, decode s.fetch = .ok i ∧ exec i s.beginCycle = .next u ∧ t = u.tick ∧
      u.mode = i.modeAfter .running ∧ u.err = s.err := by
  cases hd : decode s.fetch with
  | error e => rw [fatalError_error hd] at hf; cases hf
  | ok i =>
    rw [fatalError_ok hd] at hf
    obtain ⟨u, hu, rfl⟩ := cycle_ok hd h
    obtain ⟨hmode, herr⟩ := exec_mode_err (s := s.beginCycle) hf hu
    replace hmode : u.mode = i.modeAfter .running := hmode.trans (congrArg i.modeAfter hrun)
    have hne : u.mode ≠ .faulted := by
      rw [hmode]
      exact Instr.modeAfter_ne (by simp) (by simp)
    exact ⟨i, u, rfl, hu, endCycle_tick u hne, hmode, herr⟩

theorem cycle_next (s : State) : ∃ t : State, s.cycle = .next t := by
  cases hd : decode s.fetch with
  | error e => exact ⟨_, cycle_illegal hd⟩
  | ok i =>
    obtain ⟨t, ht⟩ := exec_next i s.beginCycle
    refine ⟨t.endCycle, ?_⟩
    rw [cycle, hd]
    simp only [ht]

/-- Outside `Running` the `step` transaction only replies (40_execution_cycle.md R132). -/
theorem hostStep_of_not_running {s : State} (h : s.mode ≠ .running) :
    s.hostStep = .next (s.setReply (.report false (if s.mode = .faulted then s.err else none))) := by
  cases hm : s.mode
  case running => exact absurd hm h
  all_goals simp [hostStep, hm]

theorem transact_next (tr : Transaction) (s : State) : ∃ t : State, s.transact tr = .next t := by
  cases tr
  case step =>
    by_cases hm : s.mode = .running
    · obtain ⟨t, ht⟩ := s.cycle_next
      exact ⟨t, (hostStep_running hm).trans ht⟩
    · exact ⟨_, hostStep_of_not_running hm⟩
  all_goals exact ⟨_, rfl⟩

/-! ### The other transactions -/

/-- A refused `load` only replies (70_reset_and_hazards.md R281). -/
theorem load_refused (s : State) {image : List Byte} (h : 3584 < image.length) : s.load image = s.setReply .nothing :=
  if_neg (Nat.not_le_of_lt h)

/-- `quit` sets no more than the mode and the reply (60_exceptions.md R265). -/
theorem quit_eq (s : State) :
    s.quit = { s with mode := if s.mode = .faulted then .faulted else .halted, reply := .nothing } := by
  cases hm : s.mode <;> simp [quit, setMode, setReply, hm]

theorem press_eq_of_waiting {s : State} {x : Reg} (h : s.mode = .waitingForKey x) (k : Key) :
    s.press k =
      (((s.setKeys (s.keys.set k.val true)).setReply .nothing).setV x (BitVec.ofNat 8 k.val)).setMode .running := by
  simp only [press, h]

theorem press_eq_of_not_waiting {s : State} (h : ∀ x, s.mode ≠ .waitingForKey x) (k : Key) :
    s.press k = (s.setKeys (s.keys.set k.val true)).setReply .nothing := by
  cases hm : s.mode
  case waitingForKey x => exact absurd hm (h x)
  all_goals simp only [press, hm]

end State

/-! ### A step -/

/-- Every step is the transaction at the head of the host's list, `step` when the list is empty, done on the state with
the list's tail. -/
theorem step_eq_transact (s : State) :
    step s = { s with host := s.host.tail }.transact (s.host.head?.getD .step) := by
  change s.issue = _
  cases hh : s.host with
  | nil =>
    rw [State.issue_nil hh]
    cases s
    cases hh
    rfl
  | cons tr rest => exact State.issue_cons hh

/-- A `step` taken in `Running` is one cycle. -/
theorem step_of_running {s : State} {rest : List Transaction} (h : s.StepsThen rest) (hrun : s.mode = .running) :
    step s = { s with host := rest }.cycle :=
  (step_of_stepsThen h).trans (State.hostStep_running hrun)

end Sys2Proof.Machine

namespace Sys2Proof.Machine.ErrKind

/-- A cause of a fatal error stands exactly when the cycle takes that error, so at most one does. -/
theorem causedAt_iff {k : ErrKind} {s : State} : k.CausedAt s ↔ s.fatalError = some k := by
  cases hd : decode s.fetch with
  | error e =>
    rw [State.fatalError_error hd]
    cases decode_error hd
    cases k <;> simp [CausedAt, hd]
  | ok i =>
    rw [State.fatalError_ok hd]
    cases k <;> cases i <;> simp [CausedAt, hd, Instr.raises]

theorem exists_causedAt_iff {s : State} : (∃ k : ErrKind, k.CausedAt s) ↔ s.fatalError ≠ none := by
  simp only [causedAt_iff, Option.ne_none_iff_exists']

end Sys2Proof.Machine.ErrKind

end

section
/-! PROOF. O59 and O60, the invariant (10_state.md section 6; 60_exceptions.md R255, R257): what each kind of step has to
leave for it to hold, then every transaction. -/

namespace Sys2Proof

theorem Instr.raises_congr (i : Instr) {s t : Machine.State} (h : t.sp = s.sp) : i.raises t = i.raises s := by
  cases i
  case call => rw [Instr.raises, Instr.raises, h]
  case ret => rw [Instr.raises, Instr.raises, h]
  all_goals rfl

end Sys2Proof

namespace Sys2Proof.Machine

/-- The error a cycle takes depends on memory, `PC` and the stack's depth alone. -/
theorem State.fatalError_congr {s t : State} (hmem : t.mem = s.mem) (hpc : t.pc = s.pc) (hsp : t.sp = s.sp) :
    t.fatalError = s.fatalError := by
  rw [fatalError, fatalError, fetch_congr hmem hpc]
  cases decode s.fetch with
  | ok i => exact i.raises_congr hsp
  | error e => rfl

namespace Inv

variable {s t : State}

/-- Outside `Faulted` there is no error record. -/
theorem err_eq_none (h : Inv s) (hm : s.mode ≠ .faulted) : s.err = none :=
  Option.not_isSome_iff_eq_none.mp (mt h.errWhenFaulted.mp hm)

/-- Outside `Faulted`, with no error record, the invariant asks for no more than the shapes of memory and grid. -/
theorem of_no_error (hmem : t.mem.wf = true) (hpos : 0 < t.params.displayW ∧ 0 < t.params.displayH)
    (hgrid : t.fb.shaped t.params.displayW t.params.displayH = true) (herr : t.err = none) (hm : t.mode ≠ .faulted) :
    Inv t where
  memCanonical := hmem
  displayPositive := hpos
  gridShaped := hgrid
  errWhenFaulted := by simp [herr, hm]
  errPrecise e he := by simp [herr] at he

/-- A step that leaves everything the invariant speaks of, and neither enters nor leaves `Faulted`, keeps it. -/
theorem congr (h : Inv s) (hmem : t.mem = s.mem) (hparams : t.params = s.params) (hfb : t.fb = s.fb)
    (hpc : t.pc = s.pc) (hsp : t.sp = s.sp) (herr : t.err = s.err) (hm : t.mode = .faulted ↔ s.mode = .faulted) :
    Inv t where
  memCanonical := hmem ▸ h.memCanonical
  displayPositive := hparams ▸ h.displayPositive
  gridShaped := by rw [hfb, hparams]; exact h.gridShaped
  errWhenFaulted := by rw [herr, hm]; exact h.errWhenFaulted
  errPrecise e he := by
    obtain ⟨hepc, heop, hcause⟩ := h.errPrecise e (herr ▸ he)
    refine ⟨hepc.trans hpc.symm, heop.trans (State.fetch_congr hmem hpc).symm, ErrKind.causedAt_iff.mpr ?_⟩
    rw [State.fatalError_congr hmem hpc hsp]
    exact ErrKind.causedAt_iff.mp hcause

/-- The state a fatal error leaves records that error, whose cause still stands. -/
theorem takeError (h : Inv s) {k : ErrKind} (hk : s.fatalError = some k) : Inv (s.takeError k) where
  memCanonical := h.memCanonical
  displayPositive := h.displayPositive
  gridShaped := h.gridShaped
  errWhenFaulted := by simp [State.takeError]
  errPrecise e he := by
    cases he
    exact ⟨rfl, rfl, ErrKind.causedAt_iff.mpr hk⟩

theorem cycle (h : Inv s) (hrun : s.mode = .running) (ht : s.cycle = .next t) : Inv t := by
  cases hk : s.fatalError with
  | some k =>
    cases (State.cycle_of_fatalError hk).symm.trans ht
    exact h.takeError hk
  | none =>
    obtain ⟨i, u, -, hu, rfl, hmode, herr⟩ := State.cycle_of_no_fatalError hrun hk ht
    obtain ⟨hparams, -, hmem, hgrid⟩ := exec_kept hu
    refine of_no_error (hmem h.memCanonical) (hparams ▸ h.displayPositive) ?grid ?err ?mode
    case grid =>
      rw [State.tick_fb, State.tick_params, hparams]
      exact hgrid _ _ h.gridShaped
    case err => exact herr.trans (h.err_eq_none (by rw [hrun]; decide))
    case mode =>
      rw [State.tick_mode, hmode]
      exact Instr.modeAfter_ne (by simp) (by simp)

theorem loadedMemory_wf (font : Vector Byte 80) (image : List Byte) : (State.loadedMemory font image).wf = true :=
  Memory.writeList_wf image 0x200 (Memory.writeList_wf font.toList 0x050 Memory.empty_wf)

theorem setReply (h : Inv s) (r : Reply) : Inv (s.setReply r) := h.congr rfl rfl rfl rfl rfl rfl .rfl

theorem transact (h : Inv s) {tr : Transaction} (ht : s.transact tr = .next t) : Inv t := by
  cases tr
  case step =>
    by_cases hrun : s.mode = .running
    · exact h.cycle hrun ((State.hostStep_running hrun).symm.trans ht)
    · cases (State.hostStep_of_not_running hrun).symm.trans ht
      exact h.setReply _
  all_goals cases ht
  case load image =>
    by_cases hlen : image.length ≤ 3584
    · rw [State.load_accepted s hlen]
      exact of_no_error (loadedMemory_wf _ _) h.displayPositive h.gridShaped rfl (by simp)
    · rw [State.load_refused s (Nat.lt_of_not_le hlen)]
      exact h.setReply _
  case quit =>
    rw [State.quit_eq]
    exact h.congr rfl rfl rfl rfl rfl rfl (by split <;> simp [*])
  case press k =>
    by_cases hw : ∃ x, s.mode = .waitingForKey x
    · obtain ⟨x, hx⟩ := hw
      rw [State.press_eq_of_waiting hx]
      exact h.congr rfl rfl rfl rfl rfl rfl (by simp [hx])
    · rw [State.press_eq_of_not_waiting (not_exists.mp hw)]
      exact h.congr rfl rfl rfl rfl rfl rfl .rfl
  case release => exact h.congr rfl rfl rfl rfl rfl rfl .rfl
  case dumpState => exact h.setReply _

end Inv
end Sys2Proof.Machine

open Sys2Proof Sys2Proof.Machine

/-- Settles O60: the step is a transaction on the state with a shorter list of pending ones, and every transaction keeps
the invariant. -/
theorem everyStepKeepsTheInvariant : Obligations.EveryStepKeepsTheInvariant := by
  intro s t h ht
  rw [step_eq_transact] at ht
  have hs : Inv { s with host := s.host.tail } := h.congr rfl rfl rfl rfl rfl rfl .rfl
  exact hs.transact ht

/-- Settles O59: the empty list is canonical, the grid is built with the display's size, and there is no error. -/
theorem resetMeetsTheInvariant : Obligations.ResetMeetsTheInvariant := by
  refine Inv.of_no_error Memory.empty_wf (by decide) ?grid rfl (by decide)
  simp [State.reset, Grid.shaped, Config.params]

end

section
/-! PROOF. O6 to O13 and O57, one step: which state it answers, when it takes a fatal error, what it does to the timers,
the mode and the parity of `PC` (40_execution_cycle.md sections 2 and 3; 60_exceptions.md sections 1 and 2). -/

namespace Sys2Proof
open Machine

/-- `DT` after the instruction, as a number. -/
theorem Instr.dtAfter_toNat (i : Instr) (s : State) (b : Byte) :
    (i.dtAfter s b).toNat = match i with | .ldDt x => (s.getV x).toNat | _ => b.toNat := by
  cases i <;> rfl

/-- `ST` after the instruction, as a number. -/
theorem Instr.stAfter_toNat (i : Instr) (s : State) (b : Byte) :
    (i.stAfter s b).toNat = match i with | .ldSt x => (s.getV x).toNat | _ => b.toNat := by
  cases i <;> rfl

end Sys2Proof

namespace Sys2Proof.Machine

theorem State.tickTimer_eq (b : Byte) : tickTimer b = if b = 0 then 0 else b - 1 := by
  rw [tickTimer, ite_not]
  split
  · assumption
  · rfl

/-- The end of a cycle, written out: the tick unless a fatal error was taken (R127, R128). -/
theorem State.endCycle_eq_ite (s : State) :
    s.endCycle = if s.mode = .faulted then s
      else { s with dt := if s.dt = 0 then 0 else s.dt - 1, st := if s.st = 0 then 0 else s.st - 1 } := by
  rw [endCycle, tick, tickTimer_eq, tickTimer_eq]

theorem State.endCycle_mode (s : State) : s.endCycle.mode = s.mode := by
  rw [endCycle]
  split <;> rfl

/-- The mode a running cycle leaves: `Faulted` exactly with a fatal error, else that of the instruction. -/
theorem State.cycle_mode {s t : State} (hrun : s.mode = .running) (h : s.cycle = .next t) :
    (s.fatalError ≠ none ∧ t.mode = .faulted) ∨
    (s.fatalError = none ∧ ∃ i, decode s.fetch = .ok i ∧ t.mode = i.modeAfter .running) := by
  cases hk : s.fatalError with
  | some k =>
    cases (cycle_of_fatalError hk).symm.trans h
    exact .inl ⟨Option.some_ne_none k, rfl⟩
  | none =>
    obtain ⟨i, u, hd, -, rfl, hmode, -⟩ := cycle_of_no_fatalError hrun hk h
    exact .inr ⟨rfl, i, hd, hmode⟩

/-- No instruction halts (40_execution_cycle.md section 3). -/
theorem exec_mode_ne_halted {i : Instr} {s t : State} (hs : s.mode ≠ .halted) (h : exec i s = .next t) :
    t.mode ≠ .halted := by
  cases hr : i.raises s with
  | some k =>
    cases (exec_of_raises hr).symm.trans h
    simp
  | none =>
    rw [(exec_mode_err hr h).1]
    exact Instr.modeAfter_ne hs (by simp)

/-- A transaction done in `Faulted` stays there with its error record, or is an accepted `load`. -/
theorem State.transact_of_faulted {tr : Transaction} {s t : State} (hm : s.mode = .faulted)
    (h : s.transact tr = .next t) :
    (t.mode = .faulted ∧ t.err = s.err) ∨ (t.mode = .running ∧ t.err = none) := by
  cases tr
  case step =>
    cases (hostStep_of_not_running (by simp [hm])).symm.trans h
    exact .inl ⟨hm, rfl⟩
  all_goals cases h
  case load image =>
    by_cases hlen : image.length ≤ 3584
    · rw [load_accepted s hlen]
      exact .inr ⟨rfl, rfl⟩
    · rw [load_refused s (Nat.lt_of_not_le hlen)]
      exact .inl ⟨hm, rfl⟩
  case quit =>
    rw [quit_eq, if_pos hm]
    exact .inl ⟨rfl, rfl⟩
  case press k =>
    rw [press_eq_of_not_waiting (by simp [hm])]
    exact .inl ⟨hm, rfl⟩
  case release => exact .inl ⟨hm, rfl⟩
  case dumpState => exact .inl ⟨hm, rfl⟩

/-- The mode after a `load`: `Running` if it is accepted (R280, R281). -/
theorem State.load_mode (s : State) (image : List Byte) :
    (s.load image).mode = if image.length ≤ 3584 then .running else s.mode := by
  split
  · next h => rw [load_accepted s h]
  · next h => rw [load_refused s (Nat.lt_of_not_le h), setReply_mode]

/-- The mode after a `press`: it ends a key-wait and leaves every other mode (R233). -/
theorem State.press_mode (s : State) (k : Key) :
    (s.press k).mode = match s.mode with | .waitingForKey _ => .running | m => m := by
  cases hm : s.mode <;> simp [press, hm]

/-- A transaction done in `Halted` writes no more than the keys and the reply, or is an accepted `load`. -/
theorem State.transact_of_halted {tr : Transaction} {s t : State} (hm : s.mode = .halted)
    (h : s.transact tr = .next t) :
    (∃ image, tr = .load image ∧ image.length ≤ 3584 ∧ t.mode = .running) ∨
    ∃ keys r, t = { s with keys := keys, reply := r } := by
  cases tr
  case step =>
    cases (hostStep_of_not_running (by simp [hm])).symm.trans h
    exact .inr ⟨_, _, rfl⟩
  all_goals cases h
  case load image =>
    by_cases hlen : image.length ≤ 3584
    · exact .inl ⟨image, rfl, hlen, by rw [load_mode, if_pos hlen]⟩
    · rw [load_refused s (Nat.lt_of_not_le hlen)]
      exact .inr ⟨_, _, rfl⟩
  case quit =>
    rw [quit_eq, if_neg (by simp [hm]), ← hm]
    exact .inr ⟨_, _, rfl⟩
  case press k =>
    rw [press_eq_of_not_waiting (by simp [hm])]
    exact .inr ⟨_, _, rfl⟩
  case release => exact .inr ⟨_, _, rfl⟩
  case dumpState => exact .inr ⟨_, _, rfl⟩

/-- A transaction other than `step` heads the list it was taken from. -/
theorem State.host_eq_cons {s : State} {tr : Transaction} (h : s.host.head?.getD .step = tr) (htr : tr ≠ .step) :
    s.host = tr :: s.host.tail := by
  cases hh : s.host with
  | nil => rw [hh] at h; exact absurd h.symm htr
  | cons hd tl => rw [hh] at h; cases h; rfl

/-- An instruction whose targets are not taken from an operand or the stack leaves `PC` or raises it by 2 (R158). -/
theorem exec_pc {i : Instr} {s t : State} (h : exec i s = .next t) (hjp : ∀ nnn, i ≠ .jp nnn)
    (hcall : ∀ nnn, i ≠ .call nnn) (hjpOff : ∀ x nnn, i ≠ .jpOff x nnn) (hret : i ≠ .ret) :
    t.pc = s.pc ∨ t.pc = s.pc + 2 := by
  have hcov := exec_covers h
  cases i
  case jp nnn => exact absurd rfl (hjp nnn)
  case call nnn => exact absurd rfl (hcall nnn)
  case jpOff x nnn => exact absurd rfl (hjpOff x nnn)
  case ret => exact absurd rfl hret
  case seI | sneI | seR | sneR | skp | sknp =>
    all_goals
      cases h
      rw [skipIf_eq, State.setPc_pc]
      exact (ite_eq_or_eq ..).symm
  all_goals exact .inl (hcov.pc rfl)

theorem add_two_even {w : Word} (h : w.toNat % 2 = 0) : (w + 2).toNat % 2 = 0 := by
  rw [BitVec.toNat_add]
  change (w.toNat + 2) % 65536 % 2 = 0
  omega

end Sys2Proof.Machine

open Sys2Proof Sys2Proof.Machine

/-- Settles O6: the arguments of `exec` are the cycle's begin, and what follows it is the cycle's end. -/
theorem stepRunsTheDecodedInstruction : Obligations.StepRunsTheDecodedInstruction := by
  intro s rest i hs hrun hd
  have hd' : decode { s with host := rest }.fetch = .ok i := hd
  obtain ⟨t, ht⟩ := exec_next i { s with host := rest }.beginCycle
  have ht' : exec i { s with pc := s.pc + 2, reply := .report false none, host := rest } = .next t := ht
  rw [step_of_running hs hrun, State.cycle, hd', ht']
  simp only [ht, State.endCycle_eq_ite]

/-- Settles O7: the fetch appends two bytes, and a read reduces its address itself. -/
theorem fetchIsBigEndian : Obligations.FetchIsBigEndian := by
  intro s
  rw [Memory.read_mod, Memory.read_mod]
  exact toNat_append_eq _ _

/-- Settles O8: every transaction answers a next state. -/
theorem everyStepAnswersANextState : Obligations.EveryStepAnswersANextState := by
  intro s
  rw [step_eq_transact]
  exact State.transact_next _ _

/-- Settles O9: outside `Running` the `step` transaction only replies. -/
theorem stepOutsideRunningChangesNothing : Obligations.StepOutsideRunningChangesNothing := by
  intro s rest hs hm
  rw [step_of_stepsThen hs]
  exact State.hostStep_of_not_running hm

/-- Settles O10: what the instruction leaves in each timer, then one tick. -/
theorem timersTickOncePerCycle : Obligations.TimersTickOncePerCycle := by
  intro s t i hs ht hok
  obtain ⟨u, hu⟩ := exec_next i s.beginCycle
  cases (step_of_aboutToRun hs hu).symm.trans ht
  rw [State.endCycle_mode] at hok
  obtain ⟨hdt, hst⟩ := exec_timers hu
  rw [State.endCycle_tick u hok, State.tick_dt, State.tick_st, State.tickTimer_toNat, State.tickTimer_toNat, hdt, hst,
    Instr.dtAfter_toNat, Instr.stAfter_toNat]
  exact ⟨rfl, rfl⟩

/-- Settles O11: the causes are exactly the error the cycle takes, and a cycle that takes one does nothing else. -/
theorem fatalErrorsArePrecise : Obligations.FatalErrorsArePrecise := by
  intro s t rest hs hrun ht
  rw [step_of_running hs hrun] at ht
  have hfatal : { s with host := rest }.fatalError = s.fatalError := State.fatalError_congr rfl rfl rfl
  refine ⟨?_, fun k hk => ?_⟩
  · rw [ErrKind.exists_causedAt_iff, ← hfatal]
    obtain ⟨hf, hm⟩ | ⟨hf, i, -, hm⟩ := State.cycle_mode (s := { s with host := rest }) hrun ht
    · exact iff_of_true hm hf
    · refine iff_of_false ?_ (not_not.mpr hf)
      rw [hm]
      exact Instr.modeAfter_ne (by simp) (by simp)
  · have hcycle := State.cycle_of_fatalError (hfatal.trans (ErrKind.causedAt_iff.mp hk))
    cases hcycle.symm.trans ht
    rfl

/-- Settles O12, transaction by transaction; the running cycle by whether it takes a fatal error. -/
theorem modeTransitions : Obligations.ModeTransitions := by
  intro s t ht
  rw [step_eq_transact] at ht
  refine ⟨fun hm => State.transact_of_faulted (s := { s with host := s.host.tail }) hm ht, ?_⟩
  generalize s.host.head?.getD .step = tr at ht ⊢
  cases tr
  case step =>
    cases hm : s.mode
    case running =>
      have hfatal : { s with host := s.host.tail }.fatalError = s.fatalError := State.fatalError_congr rfl rfl rfl
      have hcycle := (State.hostStep_running (s := { s with host := s.host.tail }) hm).symm.trans ht
      simp only [ErrKind.exists_causedAt_iff, ← hfatal, not_not]
      obtain ⟨hf, ht⟩ | ⟨hf, i, hd, ht⟩ := State.cycle_mode (s := { s with host := s.host.tail }) hm hcycle
      · exact .inl ⟨hf, ht⟩
      · refine .inr ⟨hf, ?_⟩
        have hd' : decode s.fetch = .ok i := hd
        rw [ht, hd']
        cases i <;> rfl
    all_goals
      cases (State.hostStep_of_not_running (s := { s with host := s.host.tail }) (by simp [hm])).symm.trans ht
      exact hm
  all_goals cases ht
  case load image => exact State.load_mode _ image
  case quit => rw [State.quit_eq]; cases s.mode <;> rfl
  case press k => rw [State.press_mode]; cases s.mode <;> rfl
  case release => cases s.mode <;> rfl
  case dumpState => cases s.mode <;> rfl

/-- Settles O13: in `Halted` no transaction but an accepted `load` writes more than the keys and the reply. -/
theorem haltedIsTerminal : Obligations.HaltedIsTerminal := by
  refine ⟨fun s t hm ht => ?_, fun s hm hs => ?_, fun i s t h hs => exec_mode_ne_halted hs h⟩
  · rw [step_eq_transact] at ht
    obtain ⟨image, htr, hlen, hrun⟩ | ⟨keys, r, rfl⟩ :=
      State.transact_of_halted (s := { s with host := s.host.tail }) hm ht
    · exact .inl ⟨image, s.host.tail, State.host_eq_cons htr (by simp), hlen, hrun⟩
    · exact .inr ⟨keys, s.host.tail, r, rfl⟩
  · obtain ⟨rest, hrest⟩ := List.head?_eq_some_iff.mp hs
    exact ⟨_, step_of_dumpState hrest, rfl⟩

/-- Settles O57: a step outside `Running` and a fatal error leave `PC`; every other step raises it by 2 or by 4. -/
theorem evenProgramCounterIsKept : Obligations.EvenProgramCounterIsKept := by
  intro s t hhost ht heven hjp hcall hjpOff hret
  have hs : s.StepsThen [] := .inl ⟨hhost, rfl⟩
  by_cases hrun : s.mode = .running
  · rw [step_of_running hs hrun] at ht
    cases hk : { s with host := [] }.fatalError with
    | some k =>
      cases (State.cycle_of_fatalError hk).symm.trans ht
      exact heven
    | none =>
      obtain ⟨i, u, hd, hu, rfl, -, -⟩ :=
        State.cycle_of_no_fatalError (s := { s with host := [] }) hrun hk ht
      have hpc := exec_pc hu (fun nnn e => hjp nnn (e ▸ hd)) (fun nnn e => hcall nnn (e ▸ hd))
        (fun x nnn e => hjpOff x nnn (e ▸ hd)) (fun e => hret (e ▸ hd))
      have hbegin : (s.pc + 2).toNat % 2 = 0 := add_two_even heven
      obtain hpc | hpc := hpc <;> rw [State.tick_pc, hpc]
      · exact hbegin
      · exact add_two_even hbegin
  · rw [step_of_stepsThen hs] at ht
    cases (State.hostStep_of_not_running (s := { s with host := [] }) hrun).symm.trans ht
    exact heven

end

section
/-! PROOF. O15, O17, O18, O19 and O58, the transactions `load`, `quit`, `press` and `release`, and the state after reset
(60_exceptions.md section 5; 45_keypad_timers.md section 3; 70_reset_and_hazards.md section 1). -/

namespace Sys2Proof.Machine

section listed

variable {s : State} {rest : List Transaction}

/-- A step takes the transaction it does off the list (R262). -/
theorem step_of_quit (h : s.host = .quit :: rest) : step s = .next { s with host := rest }.quit := State.issue_cons h

theorem step_of_press {k : Key} (h : s.host = .press k :: rest) : step s = .next ({ s with host := rest }.press k) :=
  State.issue_cons h

theorem step_of_release {k : Key} (h : s.host = .release k :: rest) :
    step s = .next ({ s with host := rest }.release k) := State.issue_cons h

end listed

/-! ### Memory after a reset -/

/-- Outside the font area an unlisted address reads as zero. -/
theorem Memory.background_eq_zero {e : Nat} (h : ¬(0x050 ≤ e ∧ e < 0x0A0)) : background e = 0 := dif_neg h

/-- In the font area an unlisted address reads as the default font. -/
theorem Memory.background_font {j : Nat} (h : j < 80) : background (0x050 + j) = Config.defaultFont[j] := by
  rw [background, dif_pos (by omega)]
  congr 1
  omega

namespace State

/-- The font stands at 0x050, below the image (70_reset_and_hazards.md R280). -/
theorem loadedMemory_read_font (font : Vector Byte 80) {image : List Byte} (h : image.length ≤ 3584) {j : Nat}
    (hj : j < 80) : (loadedMemory font image).read (0x050 + j) = font[j] := by
  have hlen : j < font.toList.length := by simpa using hj
  rw [loadedMemory, Memory.read_writeList_outside image _ _ _ fun k hk => by omega,
    Memory.read_writeList_inside _ _ _ hlen Memory.empty_wf (by simp)]
  simp

/-- Memory after a `load` is zero outside the font and the image (R280). -/
theorem loadedMemory_read_zero (font : Vector Byte 80) {image : List Byte} (h : image.length ≤ 3584) {a : Nat}
    (ha : a < 4096) (hfont : ¬(0x050 ≤ a ∧ a < 0x0A0)) (himage : ¬(0x200 ≤ a ∧ a < 0x200 + image.length)) :
    (loadedMemory font image).read a = 0 := by
  have hlen : font.toList.length = 80 := by simp
  rw [loadedMemory, Memory.read_writeList_outside image _ _ _ fun k hk => by omega,
    Memory.read_writeList_outside font.toList _ _ _ fun k hk => by omega, Memory.read_empty, Nat.mod_eq_of_lt ha,
    Memory.background_eq_zero hfont]

/-! ### `press` and the keys -/

theorem press_keys (s : State) (k : Key) : (s.press k).keys = s.keys.set k.val true := by
  cases hm : s.mode <;> simp [press, hm]

theorem press_host (s : State) (k : Key) : (s.press k).host = s.host := by
  cases hm : s.mode <;> simp [press, hm]

theorem press_params (s : State) (k : Key) : (s.press k).params = s.params := by
  cases hm : s.mode <;> simp [press, hm]

/-- A key-wait's `press` puts the key's id in the waiting register (R233). -/
theorem press_getV {s : State} {x : Reg} (h : s.mode = .waitingForKey x) (k : Key) :
    ((s.press k).getV x).toNat = k.val := by
  have hk := k.isLt
  rw [press_eq_of_waiting h, getV_setMode, getV_setV_same, BitVec.toNat_ofNat]
  omega

/-- Setting one key leaves every other (45_keypad_timers.md R230). -/
theorem set_key_ne (keys : Vector Bool 16) {k j : Key} (b : Bool) (h : j ≠ k) : (keys.set k.val b)[j.val] = keys[j.val] :=
  Vector.getElem_set_ne k.isLt j.isLt fun e => h (Fin.ext e.symm)

end State

namespace Footprint.Covers

variable {c : Footprint} {s t : State}

theorem setKeys (h : c.Covers s t) (hc : c.keys = true) (k : Vector Bool 16) : c.Covers s (t.setKeys k) :=
  { h with keys := by simp [hc] }

theorem setReply (h : c.Covers s t) (hc : c.reply = true) (r : Reply) : c.Covers s (t.setReply r) :=
  { h with reply := by simp [hc] }

end Footprint.Covers

/-- What a `press` in a key-wait may change (R233). -/
theorem State.press_covers_of_waiting {s : State} {x : Reg} (h : s.mode = .waitingForKey x) (k : Key) :
    Footprint.Covers { regs := [x], mode := true, keys := true, reply := true } s (s.press k) := by
  rw [press_eq_of_waiting h]
  exact ((((Footprint.Covers.refl _ s).setKeys rfl _).setReply rfl _).setV (List.mem_cons_self ..) _).setMode rfl _

/-- What a `press` in any other mode may change (R230). -/
theorem State.press_covers_of_not_waiting {s : State} (h : ∀ x, s.mode ≠ .waitingForKey x) (k : Key) :
    Footprint.Covers { keys := true, reply := true } s (s.press k) := by
  rw [press_eq_of_not_waiting h]
  exact ((Footprint.Covers.refl _ s).setKeys rfl _).setReply rfl _

end Sys2Proof.Machine

open Sys2Proof Sys2Proof.Machine

/-- Settles O15: a longer image is refused, and an accepted one leaves its three ranges of memory apart. -/
theorem loadResetsTheCore : Obligations.LoadResetsTheCore := by
  refine ⟨fun s image rest hhost hlen => ?_, fun s image rest hhost hlen => ⟨_, step_of_load hhost, ?_⟩⟩
  · rw [step_of_load hhost, State.load_refused _ hlen]
    rfl
  · rw [State.load_accepted _ hlen]
    exact ⟨fun j => Vector.getElem_replicate j.isLt, rfl, rfl, rfl, rfl, rfl, rfl, rfl, rfl, rfl, rfl, rfl,
      fun j hj => State.loadedMemory_read_image _ hlen hj, fun j hj => State.loadedMemory_read_font _ hlen hj,
      fun a ha hfont himage => State.loadedMemory_read_zero _ hlen ha hfont himage⟩

/-- Settles O17: `quit` writes the mode and the reply, and in `Faulted` the mode it finds. -/
theorem quitHaltsOnlyAHealthyCore : Obligations.QuitHaltsOnlyAHealthyCore := by
  refine fun s rest h => ⟨_, step_of_quit h, ?_⟩
  rw [State.quit_eq]
  exact ⟨rfl, fun hm => if_pos hm, fun hm => if_neg hm⟩

/-- Settles O18: the key in both cases, then the writes in a key-wait and outside one. -/
theorem pressEndsAKeyWait : Obligations.PressEndsAKeyWait := by
  refine fun s k rest h => ⟨_, step_of_press h, ?key, fun j hj => ?otherKeys, State.press_host _ k, fun x hx => ?waiting,
    State.press_covers_of_not_waiting (s := { s with host := rest }) (k := k)⟩
  case key => simp only [State.press_keys, Vector.getElem_set_self]
  case otherKeys => simp only [State.press_keys, State.set_key_ne _ true hj]
  case waiting =>
    have hwait : { s with host := rest }.mode = .waitingForKey x := hx
    refine ⟨State.press_getV hwait k, ?_, State.press_covers_of_waiting hwait k⟩
    rw [State.press_mode, hwait]

/-- Settles O19: `release` writes its key and the reply. -/
theorem releaseNeverEndsAWait : Obligations.ReleaseNeverEndsAWait := fun s k _ h =>
  ⟨_, step_of_release h, Vector.getElem_set_self k.isLt, fun _ hj => State.set_key_ne s.keys false hj, rfl⟩

/-- Settles O58: the registers by evaluation, memory from what an unlisted address reads as, and the first step from the
fatal error 0x0000 causes. -/
theorem resetState : Obligations.ResetState := by
  have hfatal : State.reset.fatalError = some .unrecognizedOpcode := by decide
  refine ⟨rfl, rfl, rfl, rfl, fun j => Vector.getElem_replicate j.isLt, rfl, rfl, rfl, rfl, fun j hj => ?font,
    fun a ha hfont => ?zero, State.reset.takeError .unrecognizedOpcode, ?step, rfl, rfl, ?err⟩
  case font =>
    rw [State.reset, Memory.read_empty, Nat.mod_eq_of_lt (by omega), Memory.background_font hj]
    rfl
  case zero => rw [State.reset, Memory.read_empty, Nat.mod_eq_of_lt ha, Memory.background_eq_zero hfont]
  case step => exact (step_of_running (.inl ⟨rfl, rfl⟩) rfl).trans (State.cycle_of_fatalError hfatal)
  case err => decide

end

section
/-! PROOF. O23 and O24, the call and the return (41_control_flow.md R151, R152; 60_exceptions.md R252, R253). -/

open Sys2Proof Sys2Proof.Machine

/-- Settles O23: below the limits one write of `PC` and the stack, at the limits the fatal error. -/
theorem callAndReturnResults : Obligations.CallAndReturnResults := by
  refine ⟨fun nnn s h => ?call, fun s h => ?ret, fun nnn s h => ?overflow, fun s h => ?underflow⟩
  case call =>
    refine ⟨_, (execCall_eq nnn s).trans (congrArg _ (dif_pos h)), Imm12.toWord_toNat nnn,
      Vector.getElem_set_self h, fun j hj hne => Vector.getElem_set_ne h hj hne.symm, rfl, ?_⟩
    exact (Footprint.Covers.refl _ s).setPcStack rfl rfl _ _ _
  case ret =>
    refine ⟨_, (execRet_eq s).trans (congrArg _ (dif_pos h)), rfl, rfl, rfl, ?_⟩
    exact (Footprint.Covers.refl _ s).setPcStack rfl rfl _ _ _
  case overflow =>
    refine ⟨_, exec_of_raises (i := .call nnn) (if_pos h), rfl, rfl, rfl, rfl, ?_⟩
    exact (Footprint.Covers.refl _ s).raise rfl rfl rfl rfl _ _
  case underflow =>
    refine ⟨_, exec_of_raises (i := .ret) (if_pos h), rfl, rfl, rfl, rfl, ?_⟩
    exact (Footprint.Covers.refl _ s).raise rfl rfl rfl rfl _ _

/-- Settles O24: the call appends the advanced `PC` to the live entries and the return takes the last one off. -/
theorem returnUndoesTheCall : Obligations.ReturnUndoesTheCall := by
  intro nnn s t u hsp ht hstack hdepth
  obtain ⟨hcall, -, hret, -, -⟩ := stackOperations
  obtain ⟨t', ht', hpush, htop⟩ := hcall nnn s hsp
  cases ht'.symm.trans ht
  obtain ⟨r, hr, hpop, -⟩ := hret u (by rw [hdepth, htop]; exact Nat.succ_pos _)
  have hlive : s.liveStack ++ [s.pc] = r.liveStack ++ [r.pc] := by
    rw [← hpush, ← hpop, State.liveStack, State.liveStack, hstack, hdepth]
  obtain ⟨hentries, hpc⟩ := List.append_inj' hlive rfl
  exact ⟨r, hr, (List.singleton_inj.mp hpc).symm, hentries.symm⟩

end

section
/-! PROOF. O27 to O30, the arithmetic with a flag, the shifts and the random byte (42_alu.md R176 to R182): each
destination and each flag as a number. -/

namespace Sys2Proof.Machine

/-- A flag as a number, for any condition `p` that its test decides. -/
theorem State.setFlag_getV_15_toNat {f : Bool} {p : Prop} [Decidable p] (h : f = true ↔ p) (s : State) :
    ((s.setFlag f).getV 15).toNat = if p then 1 else 0 := by
  rw [getV_setFlag, if_pos rfl, if_congr h rfl rfl]
  split <;> rfl

/-- A flag written before the result stands in `V[15]` unless the result is written there. -/
theorem State.setFlag_setV_getV_15_toNat {f : Bool} {p : Prop} [Decidable p] (h : f = true ↔ p) (s : State) {x : Reg}
    (hx : x ≠ 15) (b : Byte) : (((s.setFlag f).setV x b).getV 15).toNat = if p then 1 else 0 := by
  rw [getV_setV_ne _ b hx.symm, setFlag_getV_15_toNat h]

/-- A result written before the flag stands in `V[x]` unless the flag is written there. -/
theorem State.setV_setFlag_getV (s : State) (f : Bool) {x : Reg} (hx : x ≠ 15) (b : Byte) :
    ((s.setV x b).setFlag f).getV x = b := by
  rw [getV_setFlag, if_neg hx, getV_setV_same]

/-- The register a shift takes its operand from under either setting of `Q_SHIFT_VX_ONLY` (R179, R180). -/
theorem shiftSource_eq (s : State) (x y : Reg) :
    shiftSource s x y = s.getV (if s.params.qShiftVxOnly then x else y) :=
  (apply_ite s.getV ..).symm

/-- The bit a right shift drops is the remainder of the halving (R179). -/
theorem shrFlag_iff (b : Byte) : shrFlag b = true ↔ b.toNat % 2 = 1 := by
  rw [shrFlag, ← BitVec.testBit_toNat, Nat.testBit_zero, decide_eq_true_iff]

/-- The bit a left shift drops is the upper half of the byte's range (R180). -/
theorem shlFlag_iff (b : Byte) : shlFlag b = true ↔ b.toNat / 128 = 1 := by
  have hb := b.isLt
  rw [shlFlag, ← BitVec.testBit_toNat, Nat.testBit_eq_decide_div_mod_eq, decide_eq_true_iff]
  omega

theorem shr_toNat (b : Byte) : (b >>> 1).toNat = b.toNat / 2 := by
  rw [BitVec.toNat_ushiftRight, Nat.shiftRight_eq_div_pow, Nat.pow_one]

theorem shl_toNat (b : Byte) : (b <<< 1).toNat = b.toNat * 2 % 256 := by
  rw [BitVec.toNat_shiftLeft, Nat.shiftLeft_eq, Nat.pow_one]

end Sys2Proof.Machine

open Sys2Proof Sys2Proof.Machine

/-- Settles O27: the carry is written first, then the sum, which wraps modulo 256. -/
theorem addWithCarryResult : Obligations.AddWithCarryResult := by
  refine fun x y s => ⟨_, rfl, ?sum, fun hx => ?carry, exec_covers (i := .addR x y) rfl⟩
  case sum =>
    rw [State.getV_setV_same]
    exact BitVec.toNat_add _ _
  case carry => exact State.setFlag_setV_getV_15_toNat decide_eq_true_iff s hx _

/-- Settles O28: each flag is written first, then the difference, which saturates at 0. -/
theorem subtractionResults : Obligations.SubtractionResults := by
  refine fun x y s => ⟨⟨_, rfl, ?sub, fun hx => ?subFlag, exec_covers (i := .sub x y) rfl⟩,
    _, rfl, ?subn, fun hx => ?subnFlag, exec_covers (i := .subn x y) rfl⟩
  case sub => rw [State.getV_setV_same, saturatingSub_toNat]
  case subFlag => exact State.setFlag_setV_getV_15_toNat decide_eq_true_iff s hx _
  case subn => rw [State.getV_setV_same, saturatingSub_toNat]
  case subnFlag => exact State.setFlag_setV_getV_15_toNat decide_eq_true_iff s hx _

/-- Settles O29: the shifted byte is written first, then the bit shifted out. -/
theorem shiftResults : Obligations.ShiftResults := by
  intro x y s
  rw [← shiftSource_eq s x y]
  have hsrc := (shiftSource s x y).isLt
  refine ⟨⟨_, rfl, fun hx => ?shr, ?shrFlag, exec_covers (i := .shr x y) rfl⟩,
    _, rfl, fun hx => ?shl, ?shlFlag, exec_covers (i := .shl x y) rfl⟩
  case shr => rw [State.setV_setFlag_getV _ _ hx, shr_toNat]
  case shrFlag =>
    rw [State.setFlag_getV_15_toNat (shrFlag_iff _)]
    split <;> omega
  case shl => rw [State.setV_setFlag_getV _ _ hx, shl_toNat]
  case shlFlag =>
    rw [State.setFlag_getV_15_toNat (shlFlag_iff _)]
    split <;> omega

/-- Settles O30: the draw is counted, and its byte is masked bit by bit. -/
theorem randomResult : Obligations.RandomResult := by
  refine fun x nn s => ⟨_, rfl, fun k _ => ?_, rfl, exec_covers (i := .rnd x nn) rfl⟩
  rw [State.getV_setV_same, State.draw8_fst, BitVec.getLsbD_and]

end

section
/-! PROOF. O32 to O40, the index register and memory (43_index_memory.md; 20_memory.md): what `FX55` stores and `FX65`
loads, said once, and memory as the bytes it reads. -/

namespace Sys2Proof.Machine

namespace Memory

/-- The byte listed for an address of a canonical memory is what it reads as, unless it reads as an unlisted one. -/
theorem lookup_eq_of_wf {m : Memory} (h : m.wf = true) (e : Nat) :
    lookup e m = if e < 4096 ∧ m.read e ≠ background e then some (m.read e) else none := by
  cases hl : lookup e m with
  | none =>
    have hread : e < 4096 → m.read e = background e := fun he => by rw [read, Nat.mod_eq_of_lt he, hl]; rfl
    rw [if_neg fun hc => hc.2 (hread hc.1)]
  | some d =>
    obtain ⟨he, -, hne⟩ := lookup_ne_background h hl
    have hread : m.read e = d := by rw [read, Nat.mod_eq_of_lt he, hl]; rfl
    rw [hread, if_pos ⟨he, hne⟩]

/-- Two canonical memories that read alike are equal. -/
theorem wf_ext {m m' : Memory} (h : m.wf = true) (h' : m'.wf = true) (hread : ∀ a < 4096, m.read a = m'.read a) :
    m = m' := by
  refine wfFrom_ext h h' fun e => ?_
  rw [lookup_eq_of_wf h, lookup_eq_of_wf h']
  by_cases he : e < 4096
  · rw [hread e he]
  · rw [if_neg fun hc => he hc.1, if_neg fun hc => he hc.1]

/-- What a read gives after one write. -/
theorem read_write {m : Memory} (h : m.wf = true) (a k : Nat) (b : Byte) :
    (m.write a b).read k = if k % 4096 = a % 4096 then b else m.read k := by
  split
  · next hk => exact read_write_same h hk b
  · next hk => exact read_write_ne m hk b

/-- Writing a byte twice is writing it once. -/
theorem write_write {m : Memory} (h : m.wf = true) (a : Nat) (b : Byte) : (m.write a b).write a b = m.write a b := by
  have hw := write_wf h a b
  refine wf_ext (write_wf hw a b) hw fun k _ => ?_
  rw [read_write hw, read_write h]
  split <;> rfl

end Memory

/-- Where `FX55` and `FX65` leave `I`, as a number (R204, R205). -/
theorem blockIndex_toNat (s : State) (x : Reg) :
    (blockIndex s x).toNat = (if s.params.qMemKeepI then s.i.toNat else s.i.toNat + x.val + 1) % 65536 := by
  rw [blockIndex]
  split
  · exact (Nat.mod_eq_of_lt s.i.isLt).symm
  · have hx := x.isLt
    rw [BitVec.toNat_add, BitVec.toNat_ofNat]
    omega

/-- `FX55` stores `V[0]` to `V[x]` at `I`, `I + 1`, ... (R204). -/
theorem exec_stm_read {x : Reg} {s t : State} (hwf : s.mem.wf = true) (h : exec (.stm x) s = .next t) {j : Reg}
    (hj : j ≤ x) : t.mem.read (s.i.toNat + j.val) = s.getV j := by
  cases h
  have hx := x.isLt
  have hjx : j.val < x.val + 1 := Nat.lt_succ_of_le (Fin.le_def.mp hj)
  have hlen : (s.v.toList.take (x.val + 1)).length = x.val + 1 := by simp
  rw [State.setI_mem, State.setMem_mem, Memory.read_writeList_inside _ _ _ (by rw [hlen]; exact hjx) hwf (by omega)]
  simp [State.getV]

/-- `FX65` loads `V[0]` to `V[x]` from `I`, `I + 1`, ... (R205). -/
theorem exec_ldm_getV {x : Reg} {s t : State} (h : exec (.ldm x) s = .next t) {j : Reg} (hj : j ≤ x) :
    t.getV j = s.mem.read (s.i.toNat + j.val) := by
  cases h
  have hjx : j.val < x.val + 1 := Nat.lt_succ_of_le (Fin.le_def.mp hj)
  exact (s.mem.loadRegs_get s.i.toNat s.v j.val j.isLt (x.val + 1)).trans (if_pos hjx)

theorem glyphAddress_toNat (b : Byte) : (glyphAddress b).toNat = 0x050 + 5 * b.toNat := by
  have hb := b.isLt
  rw [glyphAddress, BitVec.toNat_ofNat]
  omega

/-- `FX33` stores the digit of each place at its own address (R203). -/
theorem exec_bcd_read {x : Reg} {s t : State} (hwf : s.mem.wf = true) (h : exec (.bcd x) s = .next t) {k : Nat}
    (hk : k < (decimalDigits (s.getV x)).length) : t.mem.read (s.i.toNat + k) = (decimalDigits (s.getV x))[k] := by
  cases h
  exact Memory.read_writeList_inside _ _ _ hk hwf (by simp [decimalDigits])

end Sys2Proof.Machine

open Sys2Proof Sys2Proof.Machine

/-- Settles O32: `I` keeps 16 bits of the sum, and the flag tests all of it. -/
theorem addToIndexResult : Obligations.AddToIndexResult := by
  refine fun x s => ⟨_, rfl, ?index, ?flag, exec_covers (i := .addIdx x) rfl⟩
  case index => exact BitVec.toNat_ofNat ..
  case flag => exact State.setFlag_getV_15_toNat decide_eq_true_iff _

/-- Settles O33: the formula never reaches 65536. -/
theorem glyphAddressResult : Obligations.GlyphAddressResult := fun x s =>
  ⟨_, rfl, glyphAddress_toNat (s.getV x), exec_covers (i := .font x) rfl⟩

/-- Settles O34: the three digits are stored in their order. -/
theorem decimalDigitsResult : Obligations.DecimalDigitsResult := by
  refine fun x s hwf => ⟨_, rfl, ?hundreds, ?tens, ?ones, exec_covers (i := .bcd x) rfl⟩
  case hundreds => exact congrArg BitVec.toNat (exec_bcd_read (k := 0) hwf rfl (by simp [decimalDigits]))
  case tens => exact congrArg BitVec.toNat (exec_bcd_read (k := 1) hwf rfl (by simp [decimalDigits]))
  case ones => exact congrArg BitVec.toNat (exec_bcd_read (k := 2) hwf rfl (by simp [decimalDigits]))

/-- Settles O35: what the store has written, where it leaves `I`, and its footprint. -/
theorem storeRegistersResult : Obligations.StoreRegistersResult := fun x s hwf =>
  ⟨_, rfl, fun _ hj => exec_stm_read hwf rfl hj, blockIndex_toNat s x, exec_covers (i := .stm x) rfl⟩

/-- Settles O36: what the load has read, where it leaves `I`, and its footprint. -/
theorem loadRegistersResult : Obligations.LoadRegistersResult := fun x s =>
  ⟨_, rfl, fun _ hj => exec_ldm_getV rfl hj, blockIndex_toNat s x, exec_covers (i := .ldm x) rfl⟩

/-- Settles O37: the load reads the addresses the store has written. -/
theorem loadRestoresWhatWasStored : Obligations.LoadRestoresWhatWasStored := by
  intro x s t u r hwf hstore hmem hi hload j hj
  rw [exec_ldm_getV hload hj, hmem, hi, exec_stm_read hwf hstore hj]

/-- Settles O38: the two addresses the fetch reads are, reduced, those of the two registers stored. -/
theorem storedBytesAreFetched : Obligations.StoredBytesAreFetched := by
  intro x j k s t u hwf hstore hkx hk hmem hpc
  have hjx : j ≤ x := Fin.le_def.mpr (by have := Fin.le_def.mp hkx; omega)
  rw [State.fetch, hmem, t.mem.read_congr hpc,
    t.mem.read_congr (show (u.pc.toNat + 1) % 4096 = (s.i.toNat + k.val) % 4096 by omega),
    exec_stm_read hwf hstore hjx, exec_stm_read hwf hstore hkx]

/-- Settles O39: a second write of the byte leaves a canonical memory that reads as the first left it. -/
theorem memoryReadsWhatWasWritten : Obligations.MemoryReadsWhatWasWritten := fun _ a k b h =>
  ⟨Memory.read_write h a k b, Memory.write_write h a b⟩

/-- Settles O40: in the canonical form what an address reads as says what is listed for it. -/
theorem equalMemoriesAreEqualData : Obligations.EqualMemoriesAreEqualData := fun _ _ => Memory.wf_ext

end

section
/-! PROOF. O46, O47 and O49, the key skips, the key-wait and the sound timer (45_keypad_timers.md sections 2 to 4). -/

namespace Sys2Proof.Machine

/-- A key id of a key is pressed as the Keypad says (R230). -/
theorem State.isPressed_of_lt {s : State} {b : Byte} (h : b.toNat < 16) : s.isPressed b = s.keys[b.toNat] := dif_pos h

/-- A key id above 15 is not pressed (R230). -/
theorem State.isPressed_of_not_lt {s : State} {b : Byte} (h : ¬b.toNat < 16) : s.isPressed b = false := dif_neg h

namespace Footprint.Covers

variable {c : Footprint} {s t : State}

theorem beginCycle (h : c.Covers s t) (hp : c.pc = true) (hr : c.reply = true) : c.Covers s t.beginCycle :=
  { h with pc := by simp [hp], reply := by simp [hr] }

theorem tick (h : c.Covers s t) (hd : c.dt = true) (hs : c.st = true) : c.Covers s t.tick :=
  { h with dt := by simp [hd], st := by simp [hs] }

end Footprint.Covers
end Sys2Proof.Machine

open Sys2Proof Sys2Proof.Machine

/-- Settles O46: both skips on a key, and on an id that names none. -/
theorem keySkipResults : Obligations.KeySkipResults := by
  refine fun x s => ⟨⟨_, rfl, ?skp, skipIf_covers _ s⟩, _, rfl, ?sknp, skipIf_covers _ s⟩
  case skp =>
    by_cases h : (s.getV x).toNat < 16
    · rw [dif_pos h, State.isPressed_of_lt h]
      exact skipIf_pc_toNat Iff.rfl s
    · rw [dif_neg h, State.isPressed_of_not_lt h]
      exact skipIf_pc_toNat (p := False) (by simp) s
  case sknp =>
    by_cases h : (s.getV x).toNat < 16
    · rw [dif_pos h, State.isPressed_of_lt h, ← ite_not]
      exact skipIf_pc_toNat (by simp) s
    · rw [dif_neg h, State.isPressed_of_not_lt h]
      exact skipIf_pc_toNat (p := True) (by simp) s

/-- Settles O47: the instruction is one write of the mode, and the tick that follows lowers both timers. -/
theorem waitForKeyResult : Obligations.WaitForKeyResult := by
  refine ⟨fun x s => ⟨_, rfl, rfl, exec_covers (i := .waitkey x) rfl⟩, fun x s h => ?_⟩
  refine ⟨(s.beginCycle.setMode (.waitingForKey x)).tick, ?step, rfl, rfl, State.tickTimer_toNat s.dt,
    State.tickTimer_toNat s.st, rfl, ?frame⟩
  case step => rw [step_of_aboutToRun h rfl, State.endCycle_tick _ (by simp)]
  case frame => exact (((Footprint.Covers.refl _ s).beginCycle rfl rfl).setMode rfl _).tick rfl rfl

/-- Settles O49: the instruction is one write of `ST`, and the tick that follows lowers it. -/
theorem soundTimerResult : Obligations.SoundTimerResult := by
  refine ⟨fun x s => ⟨_, rfl, rfl, exec_covers (i := .ldSt x) rfl⟩, fun x s h => ?_⟩
  exact ⟨(s.beginCycle.setSt (s.getV x)).tick, step_eq_tick h rfl rfl, State.tickTimer_toNat (s.getV x)⟩

end

section
/-! PROOF. O53 to O56, rules over all instructions and steps: what they write, when they report a redraw, and what the
parameters can change (10_state.md sections 2 and 6; 44_display.md section 1; 70_reset_and_hazards.md section 3). -/

namespace Sys2Proof
open Machine

/-! ### The footprint, field by field -/

theorem Instr.footprint_stored {i : Instr} (h : ∀ x, i ≠ .bcd x ∧ i ≠ .stm x) (s : State) :
    (i.footprint s).stored = [] := by
  cases i
  case bcd x => exact absurd rfl (h x).1
  case stm x => exact absurd rfl (h x).2
  all_goals rfl

theorem Instr.footprint_draws {i : Instr} (h : ∀ x nn, i ≠ .rnd x nn) (s : State) : (i.footprint s).draws = false := by
  cases i
  case rnd x nn => exact absurd rfl (h x nn)
  all_goals rfl

theorem Instr.footprint_keys (i : Instr) (s : State) : (i.footprint s).keys = false := by
  cases i <;> rfl

theorem Instr.footprint_fb (i : Instr) (s : State) : (i.footprint s).fb = i.redraws := by
  cases i <;> rfl

/-- The parameters with other quirks, the display and the font as they are. -/
def Params.withQuirks (p : Params) (a b c : Bool) : Params := { p with qShiftVxOnly := a, qJumpVx := b, qMemKeepI := c }

end Sys2Proof

namespace Sys2Proof.Machine

theorem State.redraw_congr {s t : State} (h : t.reply = s.reply) : t.redraw = s.redraw := by
  rw [redraw, redraw, h]

/-- From a reply without a redraw an instruction reports one exactly when it is `00E0` or `DXYN` (R129). -/
theorem exec_redraw {i : Instr} {s t : State} (hs : s.redraw = false) (h : exec i s = .next t) :
    t.redraw = i.redraws := by
  have hcov := exec_covers h
  cases i
  case cls => cases h; rfl
  case drw => cases h; rfl
  case call =>
    rw [exec, execCall_eq] at h
    cases h
    split
    · exact hs
    · rfl
  case ret =>
    rw [exec, execRet_eq] at h
    cases h
    split
    · exact hs
    · rfl
  all_goals exact (State.redraw_congr (hcov.reply rfl)).trans hs

theorem State.transact_params {tr : Transaction} {s t : State} (h : s.transact tr = .next t) : t.params = s.params := by
  cases tr
  case step =>
    by_cases hrun : s.mode = .running
    · have hcycle := (hostStep_running hrun).symm.trans h
      cases hk : s.fatalError with
      | some k => cases (cycle_of_fatalError hk).symm.trans hcycle; rfl
      | none =>
        obtain ⟨i, u, -, hu, rfl, -, -⟩ := cycle_of_no_fatalError hrun hk hcycle
        exact (exec_kept hu).params
    · cases (hostStep_of_not_running hrun).symm.trans h
      rfl
  all_goals cases h
  case load image =>
    rw [load]
    split <;> rfl
  case quit => rw [quit_eq]
  case press k => exact press_params s k
  case release => rfl
  case dumpState => rfl

/-- With other parameters a skip does the same. -/
theorem skipIf_withParams (c : Bool) (s : State) (p : Params) :
    skipIf c { s with params := p } = { skipIf c s with params := p } := by
  cases c <;> rfl

theorem shiftSource_self (s : State) (x : Reg) : shiftSource s x x = s.getV x := ite_self _

theorem jumpOffset_zero (s : State) : jumpOffset s 0 = s.getV 0 := ite_self _

/-- Where a sprite falls depends on the parameters by the display's size alone (44_display.md R222). -/
theorem spritePixels_congr {p p' : Params} (hw : p'.displayW = p.displayW) (hh : p'.displayH = p.displayH)
    (vx vy : Byte) : ∀ (bs : List Byte) (row : Nat), spritePixels p' vx vy row bs = spritePixels p vx vy row bs
  | [], _ => rfl
  | b :: bs, row => by
    rw [spritePixels, spritePixels, spritePixels_congr hw hh vx vy bs (row + 1), rowPixels, rowPixels, hw, hh]

theorem drawnPixels_withQuirks (x y : Reg) (n : Nat) (s : State) (a b c : Bool) :
    drawnPixels x y n { s with params := s.params.withQuirks a b c } = drawnPixels x y n s :=
  spritePixels_congr (p := s.params) (p' := s.params.withQuirks a b c) rfl rfl _ _ _ _

/-- With other quirks an instruction other than a shift of two registers or a `BNNN` with an offset register does the
same, but for the `I` that `FX55` and `FX65` leave (R294). -/
theorem exec_withQuirks {i : Instr} {s t : State} (a b c : Bool) (h : exec i s = .next t)
    (hshift : ∀ x y, x ≠ y → i ≠ .shr x y ∧ i ≠ .shl x y) (hjump : ∀ x nnn, x ≠ 0 → i ≠ .jpOff x nnn) :
    ∃ w : Word, exec i { s with params := s.params.withQuirks a b c } =
        .next { t with params := s.params.withQuirks a b c, i := w } ∧
      ((∀ x, i ≠ .stm x ∧ i ≠ .ldm x) → w = t.i) := by
  cases i
  case call =>
    rw [exec, execCall_eq] at h ⊢
    cases h
    exact ⟨s.i, by split <;> rfl, fun _ => by split <;> rfl⟩
  case ret =>
    rw [exec, execRet_eq] at h ⊢
    cases h
    exact ⟨s.i, by split <;> rfl, fun _ => by split <;> rfl⟩
  all_goals cases h
  case seI | sneI | seR | sneR | skp | sknp =>
    all_goals exact ⟨_, congrArg _ (skipIf_withParams ..), fun _ => rfl⟩
  case shr x y =>
    obtain rfl : x = y := by_contra fun hxy => (hshift x y hxy).1 rfl
    rw [exec, execShr, shiftSource_self, shiftSource_self]
    exact ⟨_, rfl, fun _ => rfl⟩
  case shl x y =>
    obtain rfl : x = y := by_contra fun hxy => (hshift x y hxy).2 rfl
    rw [exec, execShl, shiftSource_self, shiftSource_self]
    exact ⟨_, rfl, fun _ => rfl⟩
  case jpOff x nnn =>
    obtain rfl : x = 0 := by_contra fun hx => hjump x nnn hx rfl
    rw [exec, execJpOff, jumpOffset_zero, jumpOffset_zero]
    exact ⟨_, rfl, fun _ => rfl⟩
  case drw x y n =>
    rw [exec, execDrw, drawnPixels_withQuirks]
    exact ⟨_, rfl, fun _ => rfl⟩
  case stm x => exact ⟨_, rfl, fun hi => absurd rfl (hi x).1⟩
  case ldm x => exact ⟨_, rfl, fun hi => absurd rfl (hi x).2⟩
  all_goals exact ⟨_, rfl, fun _ => rfl⟩

end Sys2Proof.Machine

open Sys2Proof Sys2Proof.Machine

/-- Settles O53: the three fields of the instruction's footprint. -/
theorem instructionsWriteOnlyWhatTheTableSays : Obligations.InstructionsWriteOnlyWhatTheTableSays := by
  intro i s t h
  have hcov := exec_covers h
  refine ⟨fun j hd hf => hcov.regs j ?_, fun hi a => hcov.mem a ?_, fun hi => hcov.draws (i.footprint_draws hi s)⟩
  · rw [i.footprint_regs, List.mem_append, not_or]
    refine ⟨hd, ?_⟩
    split
    · next hw => exact List.mem_singleton.not.mpr (hf hw)
    · exact List.not_mem_nil
  · rw [i.footprint_stored hi]
    exact List.not_mem_nil

/-- Settles O54: the cycle begins with no redraw reported, and its end leaves the reply. -/
theorem onlyDisplayInstructionsRedraw : Obligations.OnlyDisplayInstructionsRedraw := by
  refine ⟨fun s t i hs ht => ?_, fun i s t h => ?_⟩
  · obtain ⟨u, hu⟩ := exec_next i s.beginCycle
    cases (step_of_aboutToRun hs hu).symm.trans ht
    rw [← exec_redraw rfl hu, State.endCycle_eq]
    rfl
  · have hcov := exec_covers h
    exact ⟨hcov.keys (i.footprint_keys s), fun hi => hcov.fb ((i.footprint_fb s).trans hi)⟩

/-- Settles O55: no transaction writes the parameters. -/
theorem parametersNeverChange : Obligations.ParametersNeverChange := by
  intro s t h
  rw [step_eq_transact] at h
  exact State.transact_params (s := { s with host := s.host.tail }) h

/-- Settles O56: the other quirks reach the next state only in the parameters and in `I`. -/
theorem quirkDependence : Obligations.QuirkDependence := by
  intro i s t a b c h hshift hjump
  obtain ⟨w, hexec, hw⟩ := exec_withQuirks a b c h hshift hjump
  exact ⟨_, hexec, rfl, hw⟩

end

section
/-! PROOF. O42 to O45, drawing (44_display.md R222, R224): the grid and the flag both follow from how many of the sprite's
1 bits fall on each pixel. -/

namespace Sys2Proof.Machine

/-! ### The flag of a list of visits -/

/-- Visiting the list meets the pixel (px, py) on: it was on and is visited, or it lies on the grid and is visited twice,
and so is on at the first visit or at the second (R222). -/
def Grid.Collides (g : Grid) (ps : List (Nat × Nat)) (px py : Nat) : Prop :=
  (g.pixel px py = true ∧ 1 ≤ ps.count (px, py)) ∨ (g.inside px py = true ∧ 2 ≤ ps.count (px, py))

/-- The first visit meets its own pixel as it is, the rest of the list the grid with that pixel toggled. -/
theorem Grid.collides_cons (g : Grid) (px py : Nat) (ps : List (Nat × Nat)) (qx qy : Nat) :
    g.Collides ((px, py) :: ps) qx qy ↔
      ((qx, qy) = (px, py) ∧ g.pixel px py = true) ∨ (g.toggle px py).Collides ps qx qy := by
  unfold Collides
  rw [pixel_toggle, inside_toggle]
  by_cases h : (qx, qy) = (px, py)
  · cases h
    rw [List.count_cons_self]
    generalize ps.count (px, py) = visits
    cases g.pixel px py
    · have htwice : 2 ≤ visits + 1 ↔ 1 ≤ visits ∨ 2 ≤ visits := by omega
      cases g.inside px py
      · simp
      · simpa using htwice
    · simp
  · have hq : (decide (qx = px) && decide (qy = py)) = false := by simpa using h
    rw [List.count_cons_of_ne (Ne.symm h), hq, Bool.false_and, Bool.xor_false]
    simp only [h, false_and, false_or]

/-- The flag reports that some pixel was met on. -/
theorem xorPixels_hit_iff : ∀ (ps : List (Nat × Nat)) (g : Grid),
    (xorPixels ps g false).2 = true ↔ ∃ px py, g.Collides ps px py
  | [], g => by simp [xorPixels, Grid.Collides]
  | (px, py) :: ps, g => by
    simp only [Grid.collides_cons, exists_or]
    rw [xorPixels, xorPixels_flag, Bool.or_eq_true, xorPixels_hit_iff ps, Bool.false_or]
    refine or_congr_left ⟨fun h => ⟨px, py, rfl, h⟩, ?_⟩
    rintro ⟨_, _, _, h⟩
    exact h

/-! ### The sprite's 1 bits -/

/-- `DXYN` visits a pixel as often as 1 bits of the sprite fall on it. -/
theorem count_drawnPixels (x y : Reg) (n : Nat) (s : State) (px py : Nat) :
    (drawnPixels x y n s).count (px, py) = s.spriteBitsOn x y n px py := by
  rw [drawnPixels, Memory.readList, State.spriteBitsOn, List.range_eq_range' (n := n)]
  exact count_spritePixels s.params (s.getV x) (s.getV y) px py _ n 0

/-- Some 1 bit of the sprite falls on the pixel. -/
theorem spriteBitsOn_pos_iff {x y : Reg} {n : Nat} {s : State} {px py : Nat} :
    1 ≤ s.spriteBitsOn x y n px py ↔ ∃ row < n, ∃ col < 8,
      (s.mem.read (s.i.toNat + row)).getLsbD (7 - col) = true ∧
      ((s.getV x).toNat + col) % s.params.displayW = px ∧ ((s.getV y).toNat + row) % s.params.displayH = py := by
  rw [State.spriteBitsOn, Nat.one_le_iff_ne_zero, ← Nat.pos_iff_ne_zero, List.countP_pos_iff]
  simp [and_assoc]

/-- Sums that differ by less than the modulus stay different. -/
theorem add_mod_inj {a b c m : Nat} (hb : b < m) (hc : c < m) (h : (a + b) % m = (a + c) % m) : b = c :=
  Nat.ModEq.eq_of_lt_of_lt (Nat.ModEq.add_left_cancel' a h) hb hc

/-- On a display at least 8 by 15 no two 1 bits of a sprite fall on one pixel. -/
theorem spriteBitsOn_le_one {x y : Reg} {n : Nat} {s : State} (hn : n < 16) (hw : 8 ≤ s.params.displayW)
    (hh : 15 ≤ s.params.displayH) (px py : Nat) : s.spriteBitsOn x y n px py ≤ 1 := by
  have hnodup : (List.range n ×ˢ List.range 8).Nodup := List.nodup_range.product List.nodup_range
  rw [State.spriteBitsOn, List.countP_eq_length_filter, ← List.toFinset_card_of_nodup (hnodup.filter _),
    Finset.card_le_one]
  rintro ⟨row, col⟩ hp ⟨row', col'⟩ hp'
  simp only [List.mem_toFinset, List.mem_filter, List.mem_product, List.mem_range, Bool.and_eq_true,
    decide_eq_true_eq] at hp hp'
  obtain ⟨⟨hrow, hcol⟩, ⟨-, hx⟩, hy⟩ := hp
  obtain ⟨⟨hrow', hcol'⟩, ⟨-, hx'⟩, hy'⟩ := hp'
  rw [add_mod_inj (by omega) (by omega) (hx.trans hx'.symm), add_mod_inj (by omega) (by omega) (hy.trans hy'.symm)]

/-- A sprite's 1 bits fall on the display (R7, R222). -/
theorem lt_of_spriteBitsOn_pos {x y : Reg} {n : Nat} {s : State} (hw : 0 < s.params.displayW)
    (hh : 0 < s.params.displayH) {px py : Nat} (h : 1 ≤ s.spriteBitsOn x y n px py) :
    px < s.params.displayW ∧ py < s.params.displayH := by
  obtain ⟨row, -, col, -, -, rfl, rfl⟩ := spriteBitsOn_pos_iff.mp h
  exact ⟨Nat.mod_lt _ hw, Nat.mod_lt _ hh⟩

/-- The pixels visited depend on the display, the place and the sprite's bytes alone. -/
theorem drawnPixels_congr {x y x' y' : Reg} {n : Nat} {s u : State} (hp : u.params = s.params)
    (hx : u.getV x' = s.getV x) (hy : u.getV y' = s.getV y)
    (hbytes : ∀ row < n, u.mem.read (u.i.toNat + row) = s.mem.read (s.i.toNat + row)) :
    drawnPixels x' y' n u = drawnPixels x y n s := by
  have hsprite : u.mem.readList u.i.toNat n = s.mem.readList s.i.toNat n :=
    List.map_congr_left fun row hrow => hbytes row (List.mem_range.mp hrow)
  rw [drawnPixels, drawnPixels, hp, hx, hy, hsprite]

/-! ### `DXYN` -/

section drawn

variable {x y : Reg} {n : Nat} {s t : State}

/-- The grid `DXYN` leaves. -/
theorem exec_drw_fb (h : exec (.drw x y n) s = .next t) : t.fb = (xorPixels (drawnPixels x y n s) s.fb false).1 := by
  cases h
  rfl

/-- The flag `DXYN` leaves, for any condition `p` that says whether a pixel is met on. -/
theorem exec_drw_flag {p : Prop} [Decidable p] (h : exec (.drw x y n) s = .next t)
    (hp : (∃ px py, s.fb.Collides (drawnPixels x y n s) px py) ↔ p) : (t.getV 15).toNat = if p then 1 else 0 := by
  cases h
  exact State.setFlag_getV_15_toNat ((xorPixels_hit_iff _ _).trans hp) _

/-- On the display a pixel ends changed exactly when an odd number of 1 bits fall on it. -/
theorem exec_drw_pixel (h : exec (.drw x y n) s = .next t) {px py : Nat} (hin : s.fb.inside px py = true) :
    t.fb.pixel px py = (s.fb.pixel px py ^^ decide (s.spriteBitsOn x y n px py % 2 = 1)) := by
  rw [exec_drw_fb h, xorPixels_pixel, hin, Bool.true_and, count_drawnPixels]

end drawn

end Sys2Proof.Machine

open Sys2Proof Sys2Proof.Machine

/-- Settles O42: each visit toggles its pixel, and visits are counted by the sprite's 1 bits. -/
theorem drawChangesThePixels : Obligations.DrawChangesThePixels := by
  refine fun x y n s => ⟨_, rfl, rfl, exec_covers (i := .drw x y n) rfl, fun hg => ⟨?shape, fun px hx py hy => ?pixel⟩⟩
  case shape => exact xorPixels_shaped _ _ hg
  case pixel =>
    rw [exec_drw_pixel (x := x) (y := y) (n := n) rfl (Grid.inside_of_shaped hg hx hy)]
    cases s.fb.pixel px py <;> simp

/-- Settles O43: with no pixel visited twice, a pixel met on is one that was on. -/
theorem drawReportsCollision : Obligations.DrawReportsCollision := by
  intro x y n s t hn hw hh h
  have hcollides : (∃ px py, s.fb.Collides (drawnPixels x y n s) px py) ↔ ∃ row < n, ∃ col < 8,
      (s.mem.read (s.i.toNat + row)).getLsbD (7 - col) = true ∧
      s.fb.pixel (((s.getV x).toNat + col) % s.params.displayW)
        (((s.getV y).toNat + row) % s.params.displayH) = true := by
    unfold Grid.Collides
    simp only [count_drawnPixels]
    constructor
    · rintro ⟨px, py, ⟨hon, hbit⟩ | ⟨-, htwice⟩⟩
      · obtain ⟨row, hrow, col, hcol, hb, rfl, rfl⟩ := spriteBitsOn_pos_iff.mp hbit
        exact ⟨row, hrow, col, hcol, hb, hon⟩
      · have := spriteBitsOn_le_one (x := x) (y := y) hn hw hh px py
        omega
    · rintro ⟨row, hrow, col, hcol, hb, hon⟩
      exact ⟨_, _, .inl ⟨hon, spriteBitsOn_pos_iff.mpr ⟨row, hrow, col, hcol, hb, rfl, rfl⟩⟩⟩
  rw [exec_drw_flag h hcollides]
  split
  · next hp => exact ⟨.inl rfl, iff_of_true rfl hp⟩
  · next hp => exact ⟨.inr rfl, iff_of_false (by decide) hp⟩

/-- Settles O44: a pixel met on lies on the display, and was on or is visited twice. -/
theorem drawReportsCollisionOnAnyDisplay : Obligations.DrawReportsCollisionOnAnyDisplay := by
  refine fun x y n s hw hh hg => ⟨_, rfl, exec_drw_flag (x := x) (y := y) (n := n) rfl ?_⟩
  unfold Grid.Collides
  simp only [count_drawnPixels]
  constructor
  · rintro ⟨px, py, hc⟩
    have hpos : 1 ≤ s.spriteBitsOn x y n px py := by omega
    obtain ⟨hx, hy⟩ := lt_of_spriteBitsOn_pos hw hh hpos
    exact ⟨px, hx, py, hy, hc.imp_right And.right⟩
  · rintro ⟨px, hx, py, hy, hc⟩
    exact ⟨px, py, hc.imp_right fun htwice => ⟨Grid.inside_of_shaped hg hx hy, htwice⟩⟩

/-- Settles O45: the second draw visits the pixels of the first, and a pixel the first turned on it meets on; one that two
bits of the sprite turned on and off again it turns on itself. -/
theorem drawingTwiceRestoresTheGrid : Obligations.DrawingTwiceRestoresTheGrid := by
  intro x y x' y' n s t u r hfirst hfb hp hx hy hbytes hsecond
  have hsame : drawnPixels x' y' n u = drawnPixels x y n s := drawnPixels_congr hp hx hy hbytes
  refine ⟨?_, fun hg hw hh hoff => ?_⟩
  · rw [exec_drw_fb hsecond, hsame, hfb, exec_drw_fb hfirst, xorPixels_twice]
  · obtain ⟨row, hrow, col, hcol, hbit, hoff⟩ := hoff
    generalize hpx : ((s.getV x).toNat + col) % s.params.displayW = px at hoff
    generalize hpy : ((s.getV y).toNat + row) % s.params.displayH = py at hoff
    have hpos : 1 ≤ s.spriteBitsOn x y n px py := spriteBitsOn_pos_iff.mpr ⟨row, hrow, col, hcol, hbit, hpx, hpy⟩
    obtain ⟨hx, hy⟩ := lt_of_spriteBitsOn_pos hw hh hpos
    have hpixel := exec_drw_pixel hfirst (Grid.inside_of_shaped hg hx hy)
    have hshape : u.fb.shaped s.params.displayW s.params.displayH = true := by
      rw [hfb, exec_drw_fb hfirst]
      exact xorPixels_shaped _ _ hg
    have hcollides : u.fb.Collides (drawnPixels x' y' n u) px py := by
      rw [Grid.Collides, hsame, count_drawnPixels, hfb, hpixel, hoff, Bool.false_xor, decide_eq_true_iff, ← hfb,
        Grid.inside_of_shaped hshape hx hy]
      obtain heven | hodd := Nat.mod_two_eq_zero_or_one (s.spriteBitsOn x y n px py)
      · exact .inr ⟨rfl, by omega⟩
      · exact .inl ⟨hodd, hpos⟩
    rw [exec_drw_flag (p := True) hsecond (iff_true_intro ⟨px, py, hcollides⟩), if_pos trivial]

end
